-- ==== Sys2Proof/Word.lean ====
section
/-! DEFINITION. The words of the machine: the widths of `spec/00_scope.md` rule R4. A bit vector is
read as the unsigned integer `u(v)` by `toNat` and as the two's-complement integer `s(v)` by `toInt`
(rule R7); `+`, `-`, `&&&`, `|||`, `^^^`, `~~~` are the operators of rule R7, modulo `2^32`. -/

namespace Sys2Proof

/-- A byte of memory (R4: 8 bits). -/
abbrev Byte := BitVec 8

/-- A register value, an address or an instruction word (R4: `XLEN = ILEN = 32`). -/
abbrev Word := BitVec 32

/-- A register index: an unsigned 5-bit field, all 32 values legal (R51). -/
abbrev RegIdx := BitVec 5

end Sys2Proof
end

