-- ==== Sys2Proof/Syntax.lean ====
section
/-! DEFINITION. The decoded instruction: one constructor per row of `spec/opcode_table.json`, that is
per mnemonic of `spec/30_encoding.md` rule R63, with the payload rule R62 gives its layout. Immediates
are raw, as the decoder delivers them (rule R58): 12 bits (I, S), 13 bits with bit 0 = 0 (B), 20 bits
(U), 21 bits with bit 0 = 0 (J). For the shifts the immediate is the whole 12-bit field (rule R62).
ECALL and EBREAK are single words (rule R74), so their payload says nothing and is left out. -/

namespace Sys2Proof

/-- The 41 instructions (R62, R63). -/
inductive Instr where
  /-- LUI (R100). -/
  | lui (rd : RegIdx) (imm : BitVec 20)
  /-- AUIPC (R101). -/
  | auipc (rd : RegIdx) (imm : BitVec 20)
  /-- JAL (R105). -/
  | jal (rd : RegIdx) (imm : BitVec 21)
  /-- JALR (R106). -/
  | jalr (rd rs1 : RegIdx) (imm : BitVec 12)
  /-- BEQ (R111). -/
  | beq (rs1 rs2 : RegIdx) (imm : BitVec 13)
  /-- BNE (R112). -/
  | bne (rs1 rs2 : RegIdx) (imm : BitVec 13)
  /-- BLT (R113). -/
  | blt (rs1 rs2 : RegIdx) (imm : BitVec 13)
  /-- BGE (R114). -/
  | bge (rs1 rs2 : RegIdx) (imm : BitVec 13)
  /-- BLTU (R115). -/
  | bltu (rs1 rs2 : RegIdx) (imm : BitVec 13)
  /-- BGEU (R116). -/
  | bgeu (rs1 rs2 : RegIdx) (imm : BitVec 13)
  /-- LB (R121). -/
  | lb (rd rs1 : RegIdx) (imm : BitVec 12)
  /-- LH (R122). -/
  | lh (rd rs1 : RegIdx) (imm : BitVec 12)
  /-- LW (R123). -/
  | lw (rd rs1 : RegIdx) (imm : BitVec 12)
  /-- LBU (R124). -/
  | lbu (rd rs1 : RegIdx) (imm : BitVec 12)
  /-- LHU (R125). -/
  | lhu (rd rs1 : RegIdx) (imm : BitVec 12)
  /-- SB (R131). -/
  | sb (rs1 rs2 : RegIdx) (imm : BitVec 12)
  /-- SH (R132). -/
  | sh (rs1 rs2 : RegIdx) (imm : BitVec 12)
  /-- SW (R133). -/
  | sw (rs1 rs2 : RegIdx) (imm : BitVec 12)
  /-- ADDI (R136). -/
  | addi (rd rs1 : RegIdx) (imm : BitVec 12)
  /-- SLTI (R137). -/
  | slti (rd rs1 : RegIdx) (imm : BitVec 12)
  /-- SLTIU (R138). -/
  | sltiu (rd rs1 : RegIdx) (imm : BitVec 12)
  /-- XORI (R139). -/
  | xori (rd rs1 : RegIdx) (imm : BitVec 12)
  /-- ORI (R140). -/
  | ori (rd rs1 : RegIdx) (imm : BitVec 12)
  /-- ANDI (R141). -/
  | andi (rd rs1 : RegIdx) (imm : BitVec 12)
  /-- SLLI (R142). -/
  | slli (rd rs1 : RegIdx) (imm : BitVec 12)
  /-- SRLI (R143). -/
  | srli (rd rs1 : RegIdx) (imm : BitVec 12)
  /-- SRAI (R144). -/
  | srai (rd rs1 : RegIdx) (imm : BitVec 12)
  /-- ADD (R151). -/
  | add (rd rs1 rs2 : RegIdx)
  /-- SUB (R152). -/
  | sub (rd rs1 rs2 : RegIdx)
  /-- SLL (R153). -/
  | sll (rd rs1 rs2 : RegIdx)
  /-- SLT (R154). -/
  | slt (rd rs1 rs2 : RegIdx)
  /-- SLTU (R155). -/
  | sltu (rd rs1 rs2 : RegIdx)
  /-- XOR (R156). -/
  | xor (rd rs1 rs2 : RegIdx)
  /-- SRL (R157). -/
  | srl (rd rs1 rs2 : RegIdx)
  /-- SRA (R158). -/
  | sra (rd rs1 rs2 : RegIdx)
  /-- OR (R159). -/
  | or (rd rs1 rs2 : RegIdx)
  /-- AND (R160). -/
  | and (rd rs1 rs2 : RegIdx)
  /-- FENCE (R165). -/
  | fence (rd rs1 : RegIdx) (imm : BitVec 12)
  /-- FENCE.I (R166). -/
  | fenceI (rd rs1 : RegIdx) (imm : BitVec 12)
  /-- ECALL (R170). -/
  | ecall
  /-- EBREAK (R171). -/
  | ebreak
deriving DecidableEq, Repr

/-- The 41 mnemonics of rule R63. -/
inductive Mnemonic where
  | lui | auipc | jal | jalr | beq | bne | blt | bge | bltu | bgeu | lb | lh | lw | lbu | lhu | sb | sh | sw | addi | slti | sltiu
  | xori | ori | andi | slli | srli | srai | add | sub | sll | slt | sltu | xor | srl | sra | or | and | fence | fenceI | ecall | ebreak
deriving DecidableEq, Repr

/-- The mnemonic of a decoded instruction (R62: "the mnemonic carries what they selected"). -/
def Instr.mnemonic : Instr → Mnemonic
  | .lui _ _ => .lui
  | .auipc _ _ => .auipc
  | .jal _ _ => .jal
  | .jalr _ _ _ => .jalr
  | .beq _ _ _ => .beq
  | .bne _ _ _ => .bne
  | .blt _ _ _ => .blt
  | .bge _ _ _ => .bge
  | .bltu _ _ _ => .bltu
  | .bgeu _ _ _ => .bgeu
  | .lb _ _ _ => .lb
  | .lh _ _ _ => .lh
  | .lw _ _ _ => .lw
  | .lbu _ _ _ => .lbu
  | .lhu _ _ _ => .lhu
  | .sb _ _ _ => .sb
  | .sh _ _ _ => .sh
  | .sw _ _ _ => .sw
  | .addi _ _ _ => .addi
  | .slti _ _ _ => .slti
  | .sltiu _ _ _ => .sltiu
  | .xori _ _ _ => .xori
  | .ori _ _ _ => .ori
  | .andi _ _ _ => .andi
  | .slli _ _ _ => .slli
  | .srli _ _ _ => .srli
  | .srai _ _ _ => .srai
  | .add _ _ _ => .add
  | .sub _ _ _ => .sub
  | .sll _ _ _ => .sll
  | .slt _ _ _ => .slt
  | .sltu _ _ _ => .sltu
  | .xor _ _ _ => .xor
  | .srl _ _ _ => .srl
  | .sra _ _ _ => .sra
  | .or _ _ _ => .or
  | .and _ _ _ => .and
  | .fence _ _ _ => .fence
  | .fenceI _ _ _ => .fenceI
  | .ecall => .ecall
  | .ebreak => .ebreak

/-- The six structural layouts (R52 to R57). -/
inductive Layout where
  | r | i | s | b | u | j
deriving DecidableEq, Repr

/-- The layout of each mnemonic (R63). -/
def Mnemonic.layout : Mnemonic → Layout
  | .lui | .auipc => .u
  | .jal => .j
  | .jalr | .lb | .lh | .lw | .lbu | .lhu | .addi | .slti | .sltiu | .xori | .ori | .andi | .slli | .srli | .srai | .fence | .fenceI | .ecall | .ebreak => .i
  | .beq | .bne | .blt | .bge | .bltu | .bgeu => .b
  | .sb | .sh | .sw => .s
  | .add | .sub | .sll | .slt | .sltu | .xor | .srl | .sra | .or | .and => .r

end Sys2Proof
end

