-- ==== Sys2Proof/WellFormed.lean ====
section
/-! DEFINITION. Which instruction values the decoder can deliver: the conditions
`spec/30_encoding.md` puts on a payload beyond its widths. A branch or jump offset has bit 0 = 0 (rules
R55, R57, R62); the selector bits of a shift immediate are those of its mnemonic (rules R59, R69). Every
other value of every field is a legal instance (rules R51, R71, R73). -/

namespace Sys2Proof

/-- R55, R57: "bit 0 always 0". -/
def evenOffset {n : Nat} (imm : BitVec n) : Bool := imm.extractLsb' 0 1 == 0#1

/-- R59, R69: the selector `imm[11:5]` of a shift immediate. -/
def shiftSelector (imm : BitVec 12) (sel : BitVec 7) : Bool := imm.extractLsb' 5 7 == sel

/-- The well-formed instructions. -/
def Instr.wf : Instr → Bool
  | .lui _ _ => true
  | .auipc _ _ => true
  | .jal _ imm => evenOffset imm
  | .jalr _ _ _ => true
  | .beq _ _ imm => evenOffset imm
  | .bne _ _ imm => evenOffset imm
  | .blt _ _ imm => evenOffset imm
  | .bge _ _ imm => evenOffset imm
  | .bltu _ _ imm => evenOffset imm
  | .bgeu _ _ imm => evenOffset imm
  | .lb _ _ _ => true
  | .lh _ _ _ => true
  | .lw _ _ _ => true
  | .lbu _ _ _ => true
  | .lhu _ _ _ => true
  | .sb _ _ _ => true
  | .sh _ _ _ => true
  | .sw _ _ _ => true
  | .addi _ _ _ => true
  | .slti _ _ _ => true
  | .sltiu _ _ _ => true
  | .xori _ _ _ => true
  | .ori _ _ _ => true
  | .andi _ _ _ => true
  | .slli _ _ imm => shiftSelector imm 0b0000000#7
  | .srli _ _ imm => shiftSelector imm 0b0000000#7
  | .srai _ _ imm => shiftSelector imm 0b0100000#7
  | .add _ _ _ => true
  | .sub _ _ _ => true
  | .sll _ _ _ => true
  | .slt _ _ _ => true
  | .sltu _ _ _ => true
  | .xor _ _ _ => true
  | .srl _ _ _ => true
  | .sra _ _ _ => true
  | .or _ _ _ => true
  | .and _ _ _ => true
  | .fence _ _ _ => true
  | .fenceI _ _ _ => true
  | .ecall => true
  | .ebreak => true

end Sys2Proof
end

