-- ==== Sys2Proof/Decode.lean ====
section
/-! DEFINITION. The decoder of `spec/30_encoding.md` (rules R50 to R77), a total function from a word to
an instruction or one of two named errors, and after it the encoder, written from the same tables. -/

namespace Sys2Proof

/-! ## Opcode classes (rule R65) -/

/-- The eleven opcode classes (R63, R65; `90_conflicts.md` C1). -/
inductive OpClass where
  | lui | auipc | jal | jalr | branch | load | store | arithImm | arithReg | fence | system
deriving DecidableEq, Repr

/-- The 7-bit opcode of a class (R65). -/
def OpClass.code : OpClass → BitVec 7
  | .load => 0b0000011#7
  | .fence => 0b0001111#7
  | .arithImm => 0b0010011#7
  | .auipc => 0b0010111#7
  | .store => 0b0100011#7
  | .arithReg => 0b0110011#7
  | .lui => 0b0110111#7
  | .branch => 0b1100011#7
  | .jalr => 0b1100111#7
  | .jal => 0b1101111#7
  | .system => 0b1110011#7

/-- The eleven classes, once each. -/
def OpClass.all : List OpClass :=
  [.lui, .auipc, .jal, .jalr, .branch, .load, .store, .arithImm, .arithReg, .fence, .system]

/-- The class an opcode selects, none for the 117 unrecognised opcodes (R65, R76). -/
def opClassOf (op : BitVec 7) : Option OpClass := OpClass.all.find? (fun c => c.code == op)

/-! ## Fields (rules R51 to R57) -/

/-- `word[6:0]`. -/
def opcodeField (w : Word) : BitVec 7 := w.extractLsb' 0 7
/-- `word[11:7]`. -/
def rdField (w : Word) : RegIdx := w.extractLsb' 7 5
/-- `word[14:12]`. -/
def funct3Field (w : Word) : BitVec 3 := w.extractLsb' 12 3
/-- `word[19:15]`. -/
def rs1Field (w : Word) : RegIdx := w.extractLsb' 15 5
/-- `word[24:20]`. -/
def rs2Field (w : Word) : RegIdx := w.extractLsb' 20 5
/-- `word[31:25]`. -/
def funct7Field (w : Word) : BitVec 7 := w.extractLsb' 25 7

/-- R53: `word[31:20]`. -/
def immI (w : Word) : BitVec 12 := w.extractLsb' 20 12
/-- R54: `word[31:25] ++ word[11:7]`. -/
def immS (w : Word) : BitVec 12 := w.extractLsb' 25 7 ++ w.extractLsb' 7 5
/-- R55: `word[31] ++ word[7] ++ word[30:25] ++ word[11:8] ++ 0`. -/
def immB (w : Word) : BitVec 13 :=
  w.extractLsb' 31 1 ++ w.extractLsb' 7 1 ++ w.extractLsb' 25 6 ++ w.extractLsb' 8 4 ++ 0#1
/-- R56: `word[31:12]`. -/
def immU (w : Word) : BitVec 20 := w.extractLsb' 12 20
/-- R57: `word[31] ++ word[19:12] ++ word[20] ++ word[30:21] ++ 0`. -/
def immJ (w : Word) : BitVec 21 :=
  w.extractLsb' 31 1 ++ w.extractLsb' 12 8 ++ w.extractLsb' 20 1 ++ w.extractLsb' 21 10 ++ 0#1

/-- R58, R62: the tag `imm_size_bit` of a layout, the index of the immediate's sign bit. The tag of the U
layout is never used for extension; the R layout has no immediate. -/
def Layout.immSizeBit : Layout → Option Nat
  | .i => some 11
  | .s => some 11
  | .b => some 12
  | .u => some 19
  | .j => some 20
  | .r => none

/-! ## The decode algorithm (rule R64) -/

/-- The two decode errors (R64, R186, R187). -/
inductive DecodeError where
  /-- `ERR_DECODE_OPCODE`: the opcode is none of the eleven (R76). -/
  | opcode
  /-- `ERR_DECODE_SUBSELECT`: no mnemonic for the selectors of a recognised opcode (R77). -/
  | subselect
deriving DecidableEq, Repr

/-- R72. -/
def decodeJalr (w : Word) : Except DecodeError Instr :=
  if funct3Field w = 0b000#3 then .ok (.jalr (rdField w) (rs1Field w) (immI w)) else .error .subselect

/-- R66: BRANCH_TABLE. -/
def decodeBranch (w : Word) : Except DecodeError Instr :=
  if funct3Field w = 0b000#3 then .ok (.beq (rs1Field w) (rs2Field w) (immB w))
  else if funct3Field w = 0b001#3 then .ok (.bne (rs1Field w) (rs2Field w) (immB w))
  else if funct3Field w = 0b100#3 then .ok (.blt (rs1Field w) (rs2Field w) (immB w))
  else if funct3Field w = 0b101#3 then .ok (.bge (rs1Field w) (rs2Field w) (immB w))
  else if funct3Field w = 0b110#3 then .ok (.bltu (rs1Field w) (rs2Field w) (immB w))
  else if funct3Field w = 0b111#3 then .ok (.bgeu (rs1Field w) (rs2Field w) (immB w))
  else .error .subselect

/-- R67: LOAD_TABLE. -/
def decodeLoad (w : Word) : Except DecodeError Instr :=
  if funct3Field w = 0b000#3 then .ok (.lb (rdField w) (rs1Field w) (immI w))
  else if funct3Field w = 0b001#3 then .ok (.lh (rdField w) (rs1Field w) (immI w))
  else if funct3Field w = 0b010#3 then .ok (.lw (rdField w) (rs1Field w) (immI w))
  else if funct3Field w = 0b100#3 then .ok (.lbu (rdField w) (rs1Field w) (immI w))
  else if funct3Field w = 0b101#3 then .ok (.lhu (rdField w) (rs1Field w) (immI w))
  else .error .subselect

/-- R68: STORE_TABLE. -/
def decodeStore (w : Word) : Except DecodeError Instr :=
  if funct3Field w = 0b000#3 then .ok (.sb (rs1Field w) (rs2Field w) (immS w))
  else if funct3Field w = 0b001#3 then .ok (.sh (rs1Field w) (rs2Field w) (immS w))
  else if funct3Field w = 0b010#3 then .ok (.sw (rs1Field w) (rs2Field w) (immS w))
  else .error .subselect

/-- R69. The selector of the shifts is `imm[11:5] = word[31:25]`. -/
def decodeArithImm (w : Word) : Except DecodeError Instr :=
  if funct3Field w = 0b000#3 then .ok (.addi (rdField w) (rs1Field w) (immI w))
  else if funct3Field w = 0b010#3 then .ok (.slti (rdField w) (rs1Field w) (immI w))
  else if funct3Field w = 0b011#3 then .ok (.sltiu (rdField w) (rs1Field w) (immI w))
  else if funct3Field w = 0b100#3 then .ok (.xori (rdField w) (rs1Field w) (immI w))
  else if funct3Field w = 0b110#3 then .ok (.ori (rdField w) (rs1Field w) (immI w))
  else if funct3Field w = 0b111#3 then .ok (.andi (rdField w) (rs1Field w) (immI w))
  else if funct3Field w = 0b001#3 ∧ funct7Field w = 0b0000000#7 then .ok (.slli (rdField w) (rs1Field w) (immI w))
  else if funct3Field w = 0b101#3 ∧ funct7Field w = 0b0000000#7 then .ok (.srli (rdField w) (rs1Field w) (immI w))
  else if funct3Field w = 0b101#3 ∧ funct7Field w = 0b0100000#7 then .ok (.srai (rdField w) (rs1Field w) (immI w))
  else .error .subselect

/-- R70: ARITH_REG_TABLE. -/
def decodeArithReg (w : Word) : Except DecodeError Instr :=
  if funct3Field w = 0b000#3 ∧ funct7Field w = 0b0000000#7 then .ok (.add (rdField w) (rs1Field w) (rs2Field w))
  else if funct3Field w = 0b000#3 ∧ funct7Field w = 0b0100000#7 then .ok (.sub (rdField w) (rs1Field w) (rs2Field w))
  else if funct3Field w = 0b001#3 ∧ funct7Field w = 0b0000000#7 then .ok (.sll (rdField w) (rs1Field w) (rs2Field w))
  else if funct3Field w = 0b010#3 ∧ funct7Field w = 0b0000000#7 then .ok (.slt (rdField w) (rs1Field w) (rs2Field w))
  else if funct3Field w = 0b011#3 ∧ funct7Field w = 0b0000000#7 then .ok (.sltu (rdField w) (rs1Field w) (rs2Field w))
  else if funct3Field w = 0b100#3 ∧ funct7Field w = 0b0000000#7 then .ok (.xor (rdField w) (rs1Field w) (rs2Field w))
  else if funct3Field w = 0b101#3 ∧ funct7Field w = 0b0000000#7 then .ok (.srl (rdField w) (rs1Field w) (rs2Field w))
  else if funct3Field w = 0b101#3 ∧ funct7Field w = 0b0100000#7 then .ok (.sra (rdField w) (rs1Field w) (rs2Field w))
  else if funct3Field w = 0b110#3 ∧ funct7Field w = 0b0000000#7 then .ok (.or (rdField w) (rs1Field w) (rs2Field w))
  else if funct3Field w = 0b111#3 ∧ funct7Field w = 0b0000000#7 then .ok (.and (rdField w) (rs1Field w) (rs2Field w))
  else .error .subselect

/-- R71: `rd`, `rs1` and `imm` are delivered and not examined. -/
def decodeFence (w : Word) : Except DecodeError Instr :=
  if funct3Field w = 0b000#3 then .ok (.fence (rdField w) (rs1Field w) (immI w))
  else if funct3Field w = 0b001#3 then .ok (.fenceI (rdField w) (rs1Field w) (immI w))
  else .error .subselect

/-- R74, R75: matched on the whole word. -/
def decodeSystem (w : Word) : Except DecodeError Instr :=
  if w = 0x00000073#32 then .ok .ecall
  else if w = 0x00100073#32 then .ok .ebreak
  else .error .subselect

/-- The decoder (R64). -/
def decode (w : Word) : Except DecodeError Instr :=
  match opClassOf (opcodeField w) with
  | none => .error .opcode
  | some .lui => .ok (.lui (rdField w) (immU w))
  | some .auipc => .ok (.auipc (rdField w) (immU w))
  | some .jal => .ok (.jal (rdField w) (immJ w))
  | some .jalr => decodeJalr w
  | some .branch => decodeBranch w
  | some .load => decodeLoad w
  | some .store => decodeStore w
  | some .arithImm => decodeArithImm w
  | some .arithReg => decodeArithReg w
  | some .fence => decodeFence w
  | some .system => decodeSystem w

/-! ## The encoder -/

/-- R52. -/
def encodeR (funct7 : BitVec 7) (rs2 rs1 : RegIdx) (funct3 : BitVec 3) (rd : RegIdx) (c : OpClass) : Word :=
  funct7 ++ rs2 ++ rs1 ++ funct3 ++ rd ++ c.code

/-- R53. -/
def encodeI (imm : BitVec 12) (rs1 : RegIdx) (funct3 : BitVec 3) (rd : RegIdx) (c : OpClass) : Word :=
  imm ++ rs1 ++ funct3 ++ rd ++ c.code

/-- R54. -/
def encodeS (imm : BitVec 12) (rs2 rs1 : RegIdx) (funct3 : BitVec 3) (c : OpClass) : Word :=
  imm.extractLsb' 5 7 ++ rs2 ++ rs1 ++ funct3 ++ imm.extractLsb' 0 5 ++ c.code

/-- R55. -/
def encodeB (imm : BitVec 13) (rs2 rs1 : RegIdx) (funct3 : BitVec 3) (c : OpClass) : Word :=
  imm.extractLsb' 12 1 ++ imm.extractLsb' 5 6 ++ rs2 ++ rs1 ++ funct3 ++ imm.extractLsb' 1 4 ++
    imm.extractLsb' 11 1 ++ c.code

/-- R56. -/
def encodeU (imm : BitVec 20) (rd : RegIdx) (c : OpClass) : Word := imm ++ rd ++ c.code

/-- R57. -/
def encodeJ (imm : BitVec 21) (rd : RegIdx) (c : OpClass) : Word :=
  imm.extractLsb' 20 1 ++ imm.extractLsb' 1 10 ++ imm.extractLsb' 11 1 ++ imm.extractLsb' 12 8 ++ rd ++ c.code

/-- The word of a well-formed instruction (R65 to R74). -/
def encode : Instr → Word
  | .lui rd imm => encodeU imm rd .lui
  | .auipc rd imm => encodeU imm rd .auipc
  | .jal rd imm => encodeJ imm rd .jal
  | .jalr rd rs1 imm => encodeI imm rs1 0b000#3 rd .jalr
  | .beq rs1 rs2 imm => encodeB imm rs2 rs1 0b000#3 .branch
  | .bne rs1 rs2 imm => encodeB imm rs2 rs1 0b001#3 .branch
  | .blt rs1 rs2 imm => encodeB imm rs2 rs1 0b100#3 .branch
  | .bge rs1 rs2 imm => encodeB imm rs2 rs1 0b101#3 .branch
  | .bltu rs1 rs2 imm => encodeB imm rs2 rs1 0b110#3 .branch
  | .bgeu rs1 rs2 imm => encodeB imm rs2 rs1 0b111#3 .branch
  | .lb rd rs1 imm => encodeI imm rs1 0b000#3 rd .load
  | .lh rd rs1 imm => encodeI imm rs1 0b001#3 rd .load
  | .lw rd rs1 imm => encodeI imm rs1 0b010#3 rd .load
  | .lbu rd rs1 imm => encodeI imm rs1 0b100#3 rd .load
  | .lhu rd rs1 imm => encodeI imm rs1 0b101#3 rd .load
  | .sb rs1 rs2 imm => encodeS imm rs2 rs1 0b000#3 .store
  | .sh rs1 rs2 imm => encodeS imm rs2 rs1 0b001#3 .store
  | .sw rs1 rs2 imm => encodeS imm rs2 rs1 0b010#3 .store
  | .addi rd rs1 imm => encodeI imm rs1 0b000#3 rd .arithImm
  | .slti rd rs1 imm => encodeI imm rs1 0b010#3 rd .arithImm
  | .sltiu rd rs1 imm => encodeI imm rs1 0b011#3 rd .arithImm
  | .xori rd rs1 imm => encodeI imm rs1 0b100#3 rd .arithImm
  | .ori rd rs1 imm => encodeI imm rs1 0b110#3 rd .arithImm
  | .andi rd rs1 imm => encodeI imm rs1 0b111#3 rd .arithImm
  | .slli rd rs1 imm => encodeI imm rs1 0b001#3 rd .arithImm
  | .srli rd rs1 imm => encodeI imm rs1 0b101#3 rd .arithImm
  | .srai rd rs1 imm => encodeI imm rs1 0b101#3 rd .arithImm
  | .add rd rs1 rs2 => encodeR 0b0000000#7 rs2 rs1 0b000#3 rd .arithReg
  | .sub rd rs1 rs2 => encodeR 0b0100000#7 rs2 rs1 0b000#3 rd .arithReg
  | .sll rd rs1 rs2 => encodeR 0b0000000#7 rs2 rs1 0b001#3 rd .arithReg
  | .slt rd rs1 rs2 => encodeR 0b0000000#7 rs2 rs1 0b010#3 rd .arithReg
  | .sltu rd rs1 rs2 => encodeR 0b0000000#7 rs2 rs1 0b011#3 rd .arithReg
  | .xor rd rs1 rs2 => encodeR 0b0000000#7 rs2 rs1 0b100#3 rd .arithReg
  | .srl rd rs1 rs2 => encodeR 0b0000000#7 rs2 rs1 0b101#3 rd .arithReg
  | .sra rd rs1 rs2 => encodeR 0b0100000#7 rs2 rs1 0b101#3 rd .arithReg
  | .or rd rs1 rs2 => encodeR 0b0000000#7 rs2 rs1 0b110#3 rd .arithReg
  | .and rd rs1 rs2 => encodeR 0b0000000#7 rs2 rs1 0b111#3 rd .arithReg
  | .fence rd rs1 imm => encodeI imm rs1 0b000#3 rd .fence
  | .fenceI rd rs1 imm => encodeI imm rs1 0b001#3 rd .fence
  | .ecall => 0x00000073#32
  | .ebreak => 0x00100073#32

/-! ## The opcode table as data (`spec/opcode_table.json`) -/

/-- One row of the opcode table: a word is an instance when `word & mask = match`. -/
structure OpcodeRow where
  mask : Word
  pattern : Word
deriving DecidableEq, Repr

/-- The row of a mnemonic (the match and mask values of rules R66 to R74). -/
def Mnemonic.row : Mnemonic → OpcodeRow
  | .lui => ⟨0x0000007F#32, 0x00000037#32⟩
  | .auipc => ⟨0x0000007F#32, 0x00000017#32⟩
  | .jal => ⟨0x0000007F#32, 0x0000006F#32⟩
  | .jalr => ⟨0x0000707F#32, 0x00000067#32⟩
  | .beq => ⟨0x0000707F#32, 0x00000063#32⟩
  | .bne => ⟨0x0000707F#32, 0x00001063#32⟩
  | .blt => ⟨0x0000707F#32, 0x00004063#32⟩
  | .bge => ⟨0x0000707F#32, 0x00005063#32⟩
  | .bltu => ⟨0x0000707F#32, 0x00006063#32⟩
  | .bgeu => ⟨0x0000707F#32, 0x00007063#32⟩
  | .lb => ⟨0x0000707F#32, 0x00000003#32⟩
  | .lh => ⟨0x0000707F#32, 0x00001003#32⟩
  | .lw => ⟨0x0000707F#32, 0x00002003#32⟩
  | .lbu => ⟨0x0000707F#32, 0x00004003#32⟩
  | .lhu => ⟨0x0000707F#32, 0x00005003#32⟩
  | .sb => ⟨0x0000707F#32, 0x00000023#32⟩
  | .sh => ⟨0x0000707F#32, 0x00001023#32⟩
  | .sw => ⟨0x0000707F#32, 0x00002023#32⟩
  | .addi => ⟨0x0000707F#32, 0x00000013#32⟩
  | .slti => ⟨0x0000707F#32, 0x00002013#32⟩
  | .sltiu => ⟨0x0000707F#32, 0x00003013#32⟩
  | .xori => ⟨0x0000707F#32, 0x00004013#32⟩
  | .ori => ⟨0x0000707F#32, 0x00006013#32⟩
  | .andi => ⟨0x0000707F#32, 0x00007013#32⟩
  | .slli => ⟨0xFE00707F#32, 0x00001013#32⟩
  | .srli => ⟨0xFE00707F#32, 0x00005013#32⟩
  | .srai => ⟨0xFE00707F#32, 0x40005013#32⟩
  | .add => ⟨0xFE00707F#32, 0x00000033#32⟩
  | .sub => ⟨0xFE00707F#32, 0x40000033#32⟩
  | .sll => ⟨0xFE00707F#32, 0x00001033#32⟩
  | .slt => ⟨0xFE00707F#32, 0x00002033#32⟩
  | .sltu => ⟨0xFE00707F#32, 0x00003033#32⟩
  | .xor => ⟨0xFE00707F#32, 0x00004033#32⟩
  | .srl => ⟨0xFE00707F#32, 0x00005033#32⟩
  | .sra => ⟨0xFE00707F#32, 0x40005033#32⟩
  | .or => ⟨0xFE00707F#32, 0x00006033#32⟩
  | .and => ⟨0xFE00707F#32, 0x00007033#32⟩
  | .fence => ⟨0x0000707F#32, 0x0000000F#32⟩
  | .fenceI => ⟨0x0000707F#32, 0x0000100F#32⟩
  | .ecall => ⟨0xFFFFFFFF#32, 0x00000073#32⟩
  | .ebreak => ⟨0xFFFFFFFF#32, 0x00100073#32⟩

/-! ## Bytes and the table's word -/

/-- R50, R31: the word whose bytes, in ascending address order, are `b0` to `b3`. -/
def wordOfBytes (b0 b1 b2 b3 : Byte) : Word := b3 ++ b2 ++ b1 ++ b0

/-- The bytes of a word in ascending address order (R31: little-endian). -/
def bytesOfWord (w : Word) : List Byte :=
  [w.extractLsb' 0 8, w.extractLsb' 8 8, w.extractLsb' 16 8, w.extractLsb' 24 8]

/-- The decoder on bytes in ascending address order: the first four are the instruction word (R50: every
instruction is one word), the rest is handed back. Fewer than four bytes are no word. -/
def decodeBytes : List Byte → Option (Except DecodeError Instr × List Byte)
  | b0 :: b1 :: b2 :: b3 :: rest => some (decode (wordOfBytes b0 b1 b2 b3), rest)
  | _ => none

/-- The word of an instruction whose bits are `w`, of which the opcode table gives `nbits`: the bits above
are 0. -/
def tableWord (nbits w : Nat) : Word := BitVec.ofNat 32 (w % 2 ^ nbits)

/-- The instruction the decoder reads from such an instruction, laid out in memory byte by byte. -/
def decodeTableWord (nbits w : Nat) : Option Instr :=
  match decodeBytes (bytesOfWord (tableWord nbits w)) with
  | some (.ok i, _) => some i
  | _ => none

end Sys2Proof
end

