-- ==== Sys2Proof/Config.lean ====
section
/-! DEFINITION. What the hardware's configuration fixes (`spec/00_scope.md` rule R5) and the free
values of the model: what the host answers to a system call (`spec/49_system.md` rules R174, R175,
R178), which the spec leaves to the host ("an oracle draw"). -/

namespace Sys2Proof

/-- The open parameters of rule R5. "The model takes each as an argument": the parameters are a field
of the state that no step changes, so every statement over all states holds for all of their values. -/
structure Params where
  /-- `MEM_SIZE`, the number of bytes of the flat memory. -/
  memSize : Nat
  /-- `HALT_SENTINEL`, the address that means "stop". -/
  haltSentinel : Word
  /-- `SYSCALL_ID_REG`, the register that carries the syscall id. -/
  syscallIdReg : RegIdx
  /-- `SYS_READ`. -/
  sysRead : Word
  /-- `SYS_WRITE`. -/
  sysWrite : Word
  /-- `SYS_EXIT`. -/
  sysExit : Word
deriving DecidableEq, Repr

/-- The constraints of rule R5 on the parameters (that the sentinel lies in no mapped segment is a
condition on a launch, rule R219). -/
abbrev Params.wf (p : Params) : Prop :=
  4 ≤ p.memSize ∧ p.memSize ≤ 2 ^ 32 ∧ p.haltSentinel.extractLsb' 0 2 = 0#2 ∧
    p.sysRead ≠ p.sysWrite ∧ p.sysRead ≠ p.sysExit ∧ p.sysWrite ≠ p.sysExit

/-- DESIGN CHOICE (log 1): the values the spec calls its scratch defaults (decisions D2, D3, D5); the
source fixes none. `State.reset` uses them; every other statement holds for all their values. -/
def Params.scratch : Params where
  memSize := 0x10000
  haltSentinel := 0xFFFFFFF0#32
  syscallIdReg := 17#5
  sysRead := 63#32
  sysWrite := 64#32
  sysExit := 93#32

/-- Free value (log 2): the result the host answers to its `n`-th call, where the state holds no
answer for it. Nothing is known of it (rules R174, R175, R178: "a draw from the host"). -/
opaque Config.hostResult : Nat → Word

/-- Free value (log 2): the `k`-th byte the host delivers in its `n`-th call, where the state holds no
byte for it (rule R175). -/
opaque Config.hostByte : Nat → Nat → Byte

end Sys2Proof
end

