-- ==== Sys2Proof/Machine/State.lean ====
section
/-! DEFINITION. The state of the machine, as plain data: everything `spec/10_state.md` lists, the
parameters of `spec/00_scope.md` rule R5, and the host's side of the bridge (answers in, calls out). -/

namespace Sys2Proof.Machine

/-- The code of a step's result (R185). -/
inductive ErrCode where
  /-- Every step that completes. -/
  | ok
  /-- `ERR_DECODE_OPCODE` (R186): the opcode is not recognised. -/
  | decodeOpcode
  /-- `ERR_DECODE_SUBSELECT` (R187): no mnemonic for the sub-selectors. -/
  | decodeSubselect
  /-- `ERR_MISALIGNED_TARGET` (R188): JAL, JALR or a taken branch. -/
  | misalignedTarget
  /-- `ERR_UNKNOWN_INSTR` (R189): kept in the code space; no step raises it. -/
  | unknownInstr
  /-- `ERR_MEM_OOB` (R190): fetch, load, store, or the buffer of a system call. -/
  | memOob
  /-- `ERR_SYSCALL_UNKNOWN` (R191): ECALL with an unknown id. -/
  | syscallUnknown
deriving DecidableEq, Repr

/-- The number of a code (R185; decision D16). -/
def ErrCode.number : ErrCode → Nat
  | .ok => 0
  | .decodeOpcode => 1
  | .decodeSubselect => 2
  | .misalignedTarget => 3
  | .unknownInstr => 4
  | .memOob => 5
  | .syscallUnknown => 6

/-- The fault latch `(code, info)` (R18, R194). -/
structure FaultLatch where
  code : ErrCode
  info : Word
deriving DecidableEq, Repr

/-- Why `terminated` was set (R17). -/
inductive TermCause where
  | none | ebreak | exit | sentinel | hostAbort
deriving DecidableEq, Repr

/-- One range `[start, stop)` of `exec_ranges` (R221). -/
structure ExecRange where
  start : Nat
  stop : Nat
deriving DecidableEq, Repr

/-- One answer of the host to `write` or `read`: the 32-bit result, and for `read` the bytes it delivers
(R174, R175). -/
structure HostReply where
  result : Word
  data : List Byte
deriving DecidableEq, Repr

/-- What the machine hands to the host in one bridge call (R174 to R176). -/
inductive HostCall where
  /-- `host_write(fd, bytes)`. -/
  | write (fd : Word) (bytes : List Byte)
  /-- `host_read(fd, count)`. -/
  | read (fd count : Word)
  /-- The exit code handed to the host. -/
  | exit (code : Word)
deriving DecidableEq, Repr

/-- The bytes of memory (R20, R212): the pairs of an address and its byte, for the bytes that are not 0;
every address not listed reads as 0. Its canonical form is `Memory.wf`. -/
abbrev Memory := List Host.Cell

/-- The state (10_state.md section 1). -/
structure State where
  /-- `x[1]` to `x[31]`; `x[0]` is hard-wired and has no cell (R10, R11). -/
  regs : Vector Word 31
  /-- `pc` (R14). -/
  pc : Word
  /-- `mem` (R20). -/
  mem : Memory
  /-- `terminated` (R17). -/
  terminated : Bool
  /-- `term_cause` (R17). -/
  termCause : TermCause
  /-- `exit_code` (R17, R176). -/
  exitCode : Word
  /-- The sticky fault latch (R18). -/
  fault : FaultLatch
  /-- `exec_ranges` (R221): a set, held in the order of the `map` calls without repeats (log 9). -/
  execRanges : List ExecRange
  /-- The open parameters (R5); no transaction changes them (log 1). -/
  params : Params
  /-- The model's own field: the answers the host will give, next first (log 2). -/
  hostReplies : List HostReply
  /-- The model's own field: what was handed to the host, oldest first (log 3). -/
  hostCalls : List HostCall
deriving DecidableEq, Repr

/-- Why a launch transaction answers an error value instead of a state. No step raises a `Fault`: a step's
errors are latched (R198, log 4). -/
inductive Fault where
  /-- `map` returned `ERR_MEM_OOB` (R42, R195): the range passes `MEM_SIZE`, is reversed, or its length is not
  that of the bytes. Raised by `mapSegment`. Safe: nothing is written and the launch does not start. -/
  | mapOutOfBounds (start stop : Nat)
deriving DecidableEq, Repr

/-- Why the model gives no state. -/
inductive Refusal where
  /-- `exec`'s arm of an instruction without a meaning. Safe. No arm uses it: every instruction has one. -/
  | notModelled (mnemonic : String)
  /-- `init` refuses an entry point that is not a multiple of 4 (R217). Raised by `init`. Safe. -/
  | entryPointMisaligned (entryPoint : Word)
  /-- A launch with overlapping segments is refused (R43, U1). Raised by `launch`. Safe. -/
  | segmentsOverlap
  /-- `HALT_SENTINEL` is not a multiple of 4 or lies in a mapped segment (R219). Raised by `launch`. Safe. -/
  | sentinelMisplaced
deriving DecidableEq, Repr

/-- The machine right after `reset`, for given parameters (R210 to R213): every register, `pc`, memory byte
and control field at 0, `exec_ranges` empty. The host has been told nothing and has announced no answer
(DESIGN CHOICE, logs 2 and 3). -/
def State.resetWith (p : Params) : State where
  regs := Vector.replicate 31 0#32
  pc := 0#32
  mem := []
  terminated := false
  termCause := .none
  exitCode := 0#32
  fault := ⟨.ok, 0#32⟩
  execRanges := []
  params := p
  hostReplies := []
  hostCalls := []

/-- The machine right after `reset`, with the spec's scratch parameters (DESIGN CHOICE, log 1). -/
def State.reset : State := State.resetWith Params.scratch

end Sys2Proof.Machine
end

