-- ==== Sys2Proof/Machine/Memory.lean ====
section
/-! DEFINITION. The byte array `mem` of `spec/10_state.md` rule R20 as a list in one canonical form:
addresses strictly rising, no entry that is 0 (what an unlisted address reads as: R212, "allocated and
zeroed"). The bounds are those of `Ops.lean`; these are the bytes. -/

namespace Sys2Proof.Machine

/-- Every listed address is `lo` or above, rising strictly from entry to entry, and no entry is 0. -/
def Memory.wfFrom : Memory → Nat → Bool
  | [], _ => true
  | (b, v) :: m, lo => decide (lo ≤ b) && v != 0#8 && Memory.wfFrom m (b + 1)

/-- The canonical form. -/
def Memory.wf (m : Memory) : Bool := m.wfFrom 0

/-- The byte at address `a` (R20, R212). -/
def Memory.read : Memory → Nat → Byte
  | [], _ => 0#8
  | (b, v) :: m, a => if b = a then v else Memory.read m a

/-- A cell in front of a list, unless it holds what an unlisted address reads as. -/
def Memory.cons (a : Nat) (v : Byte) (m : Memory) : Memory := if v = 0#8 then m else (a, v) :: m

/-- `mem[a] <- v`, keeping the canonical form. -/
def Memory.write : Memory → Nat → Byte → Memory
  | [], a, v => Memory.cons a v []
  | (b, w) :: m, a, v =>
    if a < b then Memory.cons a v ((b, w) :: m)
    else if a = b then Memory.cons a v m
    else (b, w) :: Memory.write m a v

/-- The `n` bytes from address `a` on, ascending. -/
def Memory.readBytes (m : Memory) (a : Nat) : Nat → List Byte
  | 0 => []
  | n + 1 => m.read a :: Memory.readBytes m (a + 1) n

/-- `mem[a + k] <- bs[k]` for every `k`, ascending (R33, R42, R175). -/
def Memory.writeBytes : Memory → Nat → List Byte → Memory
  | m, _, [] => m
  | m, a, b :: bs => Memory.writeBytes (m.write a b) (a + 1) bs

/-- Every listed address is below `size` (R20: "There is no byte outside"). -/
def Memory.below (m : Memory) (size : Nat) : Bool := m.all (fun c => decide (c.1 < size))

end Sys2Proof.Machine
end

