-- ==== Sys2Proof/Machine/Operands.lean ====
section
/-! DEFINITION. Operands: the register ports, the sign and zero extenders, the 32-bit value of each
immediate, shift amounts and effective addresses (`spec/30_encoding.md` rules R58 to R60,
`spec/40_datapath.md` rule R91, `spec/20_memory.md` rule R44). -/

namespace Sys2Proof.Machine

/-! ## Register ports (R10 to R12) -/

/-- `x[r]`: "register index 0 always reads as zero" (R11). -/
def State.readReg (s : State) (r : RegIdx) : Word :=
  if h : r = 0#5 then 0#32
  else s.regs[r.toNat - 1]'(by have := r.isLt; omega)

/-- `x[r] <- v`: register 0 "ignores writes" (R11). -/
def State.writeReg (s : State) (r : RegIdx) (v : Word) : State :=
  if h : r = 0#5 then s
  else { s with regs := s.regs.set (r.toNat - 1) v (by have := r.isLt; omega) }

/-! ## Extenders (R8, R9, R91) -/

/-- `sext_N(v)` (R8): the bits above bit `N - 1` are copies of it. -/
def sext {n : Nat} (v : BitVec n) : Word := v.signExtend 32

/-- `zext_N(v)` (R8). -/
def zext {n : Nat} (v : BitVec n) : Word := v.setWidth 32

/-- R56: the U immediate at bits 31 to 12, the low 12 bits zero. -/
def upperImm (imm : BitVec 20) : Word := imm ++ 0#12

/-! ## Shift amounts (R59, R90) -/

/-- "shift amount = low 5 bits of imm". -/
def shamtImm (imm : BitVec 12) : BitVec 5 := imm.extractLsb' 0 5

/-- "shift amount = low 5 bits of `rs2`". -/
def shamtReg (v : Word) : BitVec 5 := v.extractLsb' 0 5

/-! ## Addresses -/

/-- R44, R120, R130: `x[rs1] + sext_12(imm)`, modulo `2^32`. -/
def State.effAddr (s : State) (rs1 : RegIdx) (imm : BitVec 12) : Word := s.readReg rs1 + sext imm

/-- R105, R110: the target relative to the instruction's own address. -/
def State.pcRel {n : Nat} (s : State) (imm : BitVec n) : Word := s.pc + sext imm

/-- R106: `(x[rs1] + sext_12(imm)) & 0xFFFFFFFE`. -/
def State.jalrTarget (s : State) (rs1 : RegIdx) (imm : BitVec 12) : Word :=
  (s.readReg rs1 + sext imm) &&& 0xFFFFFFFE#32

/-- The link value and the default next address, `pc + 4` (R15, R93). -/
def State.pcPlus4 (s : State) : Word := s.pc + 4#32

/-! ## Argument registers of the bridge (R13, R173) -/

/-- Argument register `k` is `x[10 + k]`. -/
def argReg (k : BitVec 3) : RegIdx := 10#5 + k.setWidth 5

/-- The value of argument register `k`. -/
def State.arg (s : State) (k : BitVec 3) : Word := s.readReg (argReg k)

/-- The syscall id: `x[SYSCALL_ID_REG]`. -/
def State.syscallId (s : State) : Word := s.readReg s.params.syscallIdReg

end Sys2Proof.Machine
end

