-- ==== Sys2Proof/Machine/Flags.lean ====
section
/-! DEFINITION. The hardware has no flags (`spec/40_datapath.md` rule R97): "comparisons deliver their
result into `rd` (SLT, SLTU, SLTI, SLTIU) or directly into the branch decision". This file is the
comparator (rules R86 and R92): all there is in the place of flag computations. -/

namespace Sys2Proof.Machine

/-- BEQ: `A = B` (R92). -/
def condEq (a b : Word) : Bool := a == b
/-- BNE: `A != B` (R92). -/
def condNe (a b : Word) : Bool := !condEq a b
/-- BLT: `s(A) < s(B)` (R92). -/
def condLt (a b : Word) : Bool := decide (a.toInt < b.toInt)
/-- BGE: `s(A) >= s(B)`, "the negation of BLT" (R92). -/
def condGe (a b : Word) : Bool := !condLt a b
/-- BLTU: `u(A) < u(B)` (R92). -/
def condLtu (a b : Word) : Bool := decide (a.toNat < b.toNat)
/-- BGEU: `u(A) >= u(B)`, the negation of BLTU (R92). -/
def condGeu (a b : Word) : Bool := !condLtu a b

/-- The 32-bit value `0x00000001` or `0x00000000` of a comparison (R86). -/
def boolWord (c : Bool) : Word := if c then 1#32 else 0#32

/-- SLT (R86). -/
def aluSlt (a b : Word) : Word := boolWord (condLt a b)
/-- SLTU (R86). -/
def aluSltu (a b : Word) : Word := boolWord (condLtu a b)

end Sys2Proof.Machine
end

