-- ==== Sys2Proof/Machine/Alu.lean ====
section
/-! DEFINITION. The ALU and the shift unit (`spec/40_datapath.md` rules R84 to R90). -/

namespace Sys2Proof.Machine

/-- R84: `(u(A) + u(B)) mod 2^32`. -/
def aluAdd (a b : Word) : Word := a + b
/-- R84: `(u(A) - u(B)) mod 2^32`. -/
def aluSub (a b : Word) : Word := a - b
/-- R85. -/
def aluXor (a b : Word) : Word := a ^^^ b
/-- R85. -/
def aluOr (a b : Word) : Word := a ||| b
/-- R85. -/
def aluAnd (a b : Word) : Word := a &&& b
/-- R87: zeros enter at the low end. -/
def aluSll (a : Word) (sh : BitVec 5) : Word := a <<< sh.toNat
/-- R88: zeros enter at the high end. -/
def aluSrl (a : Word) (sh : BitVec 5) : Word := a >>> sh.toNat
/-- R89: copies of bit 31 enter at the high end. -/
def aluSra (a : Word) (sh : BitVec 5) : Word := a.sshiftRight sh.toNat

end Sys2Proof.Machine
end

