-- ==== Sys2Proof/Machine/Ops.lean ====
section
/-! DEFINITION. The named operations over memory and registers that the meanings share: the memory
controller (`spec/20_memory.md`), taking an error (`spec/60_exceptions.md` rule R198), the end of a run
(`spec/10_state.md` rule R17), and the execute-feedback multiplexer (`spec/40_datapath.md` rules R94 to
R96), which commits a register write, a memory write and a `pc` write together, or nothing. -/

namespace Sys2Proof.Machine

/-- What a meaning answers. -/
abbrev Result := Host.Outcome State Fault Refusal

/-! ## The memory controller (R30 to R34) -/

/-- R34: `address + n <= size`, "in unbounded integers, never modulo `2^32`". -/
def State.accessOk (s : State) (addr : Word) (n : Nat) : Bool := decide (addr.toNat + n ≤ s.params.memSize)

/-- `read8` (R32); none is `Fault(ERR_MEM_OOB, addr)`. -/
def State.memRead8 (s : State) (addr : Word) : Option (BitVec 8) :=
  if s.accessOk addr 1 then some (s.mem.read addr.toNat) else none

/-- `read16` (R32): `mem[u(addr)+1] ++ mem[u(addr)]`. -/
def State.memRead16 (s : State) (addr : Word) : Option (BitVec 16) :=
  if s.accessOk addr 2 then some (s.mem.read (addr.toNat + 1) ++ s.mem.read addr.toNat) else none

/-- `read32` (R32): four bytes, the one at the lowest address least significant. -/
def State.memRead32 (s : State) (addr : Word) : Option (BitVec 32) :=
  if s.accessOk addr 4 then
    some (wordOfBytes (s.mem.read addr.toNat) (s.mem.read (addr.toNat + 1)) (s.mem.read (addr.toNat + 2))
      (s.mem.read (addr.toNat + 3)))
  else none

/-- The low `n` bytes of `v`, `v[8k+7 : 8k]` for `k = 0 .. n-1` (R33). -/
def lowBytes (v : Word) (n : Nat) : List Byte := (List.range n).map (fun k => v.extractLsb' (8 * k) 8)

/-- `MemWrite(addr, n, v)` (R33); none is `Fault(ERR_MEM_OOB, addr)`, and then no byte is written. -/
def State.memWrite (s : State) (addr : Word) (n : Nat) (v : Word) : Option State :=
  if s.accessOk addr n then some { s with mem := s.mem.writeBytes addr.toNat (lowBytes v n) } else none

/-! ## Taking an error (R198) -/

/-- R198: "`fault <- (code, info)`, nothing else changes". -/
def State.latch (s : State) (code : ErrCode) (info : Word) : State := { s with fault := ⟨code, info⟩ }

/-- `raise Fault(code, info)` (R8, R198): the one way any instruction, fetch or decode ends in an error.
Nothing is saved, no mode changes, control goes nowhere: `pc` stays on the faulting instruction. There is no
return from an error (R200): only `reset` and `init` clear the latch. -/
def raiseFault (code : ErrCode) (info : Word) (s : State) : Result := .next (s.latch code info)

/-! ## The end of a run (R17) -/

/-- `terminated <- 1; term_cause <- cause`. -/
def State.finish (s : State) (cause : TermCause) : State := { s with terminated := true, termCause := cause }

/-! ## Commit (R94 to R96) -/

/-- `pc <- t`. -/
def State.setPc (s : State) (t : Word) : State := { s with pc := t }

/-- The default increment, `pc <- pc + 4` (R15). -/
def State.advance (s : State) : State := s.setPc s.pcPlus4

/-- Nothing but the default increment. -/
def commitNothing (s : State) : Result := .next s.advance

/-- A register result and the default increment (R94, R95). -/
def commitReg (rd : RegIdx) (v : Word) (s : State) : Result := .next (s.writeReg rd v).advance

/-- R107: `target mod 4 = 0`. -/
def aligned (target : Word) : Bool := target.extractLsb' 0 2 == 0#2

/-- JAL and JALR (R105, R106): check the target, then write the link value and `pc` together. The target was
computed from the state before the step (R223). -/
def jumpAndLink (rd : RegIdx) (target : Word) (s : State) : Result :=
  if aligned target then .next ((s.writeReg rd s.pcPlus4).setPc target)
  else raiseFault .misalignedTarget target s

/-- The six branches (R110): a branch that is not taken is never checked (R107). -/
def branchIf (taken : Bool) (imm : BitVec 13) (s : State) : Result :=
  if taken then
    if aligned (s.pcRel imm) then .next (s.setPc (s.pcRel imm))
    else raiseFault .misalignedTarget (s.pcRel imm) s
  else .next s.advance

/-- The five loads (R120): `data` is what `MemRead` at `addr` gave. -/
def loadTo {n : Nat} (rd : RegIdx) (addr : Word) (data : Option (BitVec n)) (ext : BitVec n → Word) (s : State) :
    Result :=
  match data with
  | some v => commitReg rd (ext v) s
  | none => raiseFault .memOob addr s

/-- The three stores (R130). -/
def storeAt (addr : Word) (n : Nat) (v : Word) (s : State) : Result :=
  match s.memWrite addr n v with
  | some t => .next t.advance
  | none => raiseFault .memOob addr s

end Sys2Proof.Machine
end

