-- ==== Sys2Proof/Machine/ArithImm.lean ====
section
/-! DEFINITION. The nine register-immediate instructions (`spec/46_arith_immediate.md`). -/

namespace Sys2Proof.Machine

/-- ADDI (R136): `x[rs1] + sext_12(imm)`. -/
def execAddi (rd rs1 : RegIdx) (imm : BitVec 12) (s : State) : Result :=
  commitReg rd (aluAdd (s.readReg rs1) (sext imm)) s

/-- SLTI (R137): `1 if s(x[rs1]) < s(sext_12(imm)) else 0`. -/
def execSlti (rd rs1 : RegIdx) (imm : BitVec 12) (s : State) : Result :=
  commitReg rd (aluSlt (s.readReg rs1) (sext imm)) s

/-- SLTIU (R138): `1 if u(x[rs1]) < u(sext_12(imm)) else 0`. -/
def execSltiu (rd rs1 : RegIdx) (imm : BitVec 12) (s : State) : Result :=
  commitReg rd (aluSltu (s.readReg rs1) (sext imm)) s

/-- XORI (R139): `x[rs1] ^ sext_12(imm)`. -/
def execXori (rd rs1 : RegIdx) (imm : BitVec 12) (s : State) : Result :=
  commitReg rd (aluXor (s.readReg rs1) (sext imm)) s

/-- ORI (R140): `x[rs1] | sext_12(imm)`. -/
def execOri (rd rs1 : RegIdx) (imm : BitVec 12) (s : State) : Result :=
  commitReg rd (aluOr (s.readReg rs1) (sext imm)) s

/-- ANDI (R141): `x[rs1] & sext_12(imm)`. -/
def execAndi (rd rs1 : RegIdx) (imm : BitVec 12) (s : State) : Result :=
  commitReg rd (aluAnd (s.readReg rs1) (sext imm)) s

/-- SLLI (R142): `SLL(x[rs1], imm[4:0])`. -/
def execSlli (rd rs1 : RegIdx) (imm : BitVec 12) (s : State) : Result :=
  commitReg rd (aluSll (s.readReg rs1) (shamtImm imm)) s

/-- SRLI (R143): `SRL(x[rs1], imm[4:0])`. -/
def execSrli (rd rs1 : RegIdx) (imm : BitVec 12) (s : State) : Result :=
  commitReg rd (aluSrl (s.readReg rs1) (shamtImm imm)) s

/-- SRAI (R144): `SRA(x[rs1], imm[4:0])`. -/
def execSrai (rd rs1 : RegIdx) (imm : BitVec 12) (s : State) : Result :=
  commitReg rd (aluSra (s.readReg rs1) (shamtImm imm)) s

end Sys2Proof.Machine
end

