-- ==== Sys2Proof/Machine/ArithReg.lean ====
section
/-! DEFINITION. The ten register-register instructions (`spec/47_arith_register.md`). -/

namespace Sys2Proof.Machine

/-- ADD (R151): `x[rs1] + x[rs2]`. -/
def execAdd (rd rs1 rs2 : RegIdx) (s : State) : Result :=
  commitReg rd (aluAdd (s.readReg rs1) (s.readReg rs2)) s

/-- SUB (R152): `x[rs1] - x[rs2]`. -/
def execSub (rd rs1 rs2 : RegIdx) (s : State) : Result :=
  commitReg rd (aluSub (s.readReg rs1) (s.readReg rs2)) s

/-- SLL (R153): `SLL(x[rs1], x[rs2][4:0])`. -/
def execSll (rd rs1 rs2 : RegIdx) (s : State) : Result :=
  commitReg rd (aluSll (s.readReg rs1) (shamtReg (s.readReg rs2))) s

/-- SLT (R154): `1 if s(x[rs1]) < s(x[rs2]) else 0`. -/
def execSlt (rd rs1 rs2 : RegIdx) (s : State) : Result :=
  commitReg rd (aluSlt (s.readReg rs1) (s.readReg rs2)) s

/-- SLTU (R155): `1 if u(x[rs1]) < u(x[rs2]) else 0`. -/
def execSltu (rd rs1 rs2 : RegIdx) (s : State) : Result :=
  commitReg rd (aluSltu (s.readReg rs1) (s.readReg rs2)) s

/-- XOR (R156): `x[rs1] ^ x[rs2]`. -/
def execXor (rd rs1 rs2 : RegIdx) (s : State) : Result :=
  commitReg rd (aluXor (s.readReg rs1) (s.readReg rs2)) s

/-- SRL (R157): `SRL(x[rs1], x[rs2][4:0])`. -/
def execSrl (rd rs1 rs2 : RegIdx) (s : State) : Result :=
  commitReg rd (aluSrl (s.readReg rs1) (shamtReg (s.readReg rs2))) s

/-- SRA (R158): `SRA(x[rs1], x[rs2][4:0])`. -/
def execSra (rd rs1 rs2 : RegIdx) (s : State) : Result :=
  commitReg rd (aluSra (s.readReg rs1) (shamtReg (s.readReg rs2))) s

/-- OR (R159): `x[rs1] | x[rs2]`. -/
def execOr (rd rs1 rs2 : RegIdx) (s : State) : Result :=
  commitReg rd (aluOr (s.readReg rs1) (s.readReg rs2)) s

/-- AND (R160): `x[rs1] & x[rs2]`. -/
def execAnd (rd rs1 rs2 : RegIdx) (s : State) : Result :=
  commitReg rd (aluAnd (s.readReg rs1) (s.readReg rs2)) s

end Sys2Proof.Machine
end

