-- ==== Sys2Proof/Machine/Branches.lean ====
section
/-! DEFINITION. The six conditional branches (`spec/43_branches.md`). -/

namespace Sys2Proof.Machine

/-- BEQ (R111): taken when `a = b`. -/
def execBeq (rs1 rs2 : RegIdx) (imm : BitVec 13) (s : State) : Result :=
  branchIf (condEq (s.readReg rs1) (s.readReg rs2)) imm s

/-- BNE (R112): taken when `a != b`. -/
def execBne (rs1 rs2 : RegIdx) (imm : BitVec 13) (s : State) : Result :=
  branchIf (condNe (s.readReg rs1) (s.readReg rs2)) imm s

/-- BLT (R113): taken when `s(a) < s(b)`. -/
def execBlt (rs1 rs2 : RegIdx) (imm : BitVec 13) (s : State) : Result :=
  branchIf (condLt (s.readReg rs1) (s.readReg rs2)) imm s

/-- BGE (R114): taken when `s(a) >= s(b)`. -/
def execBge (rs1 rs2 : RegIdx) (imm : BitVec 13) (s : State) : Result :=
  branchIf (condGe (s.readReg rs1) (s.readReg rs2)) imm s

/-- BLTU (R115): taken when `u(a) < u(b)`. -/
def execBltu (rs1 rs2 : RegIdx) (imm : BitVec 13) (s : State) : Result :=
  branchIf (condLtu (s.readReg rs1) (s.readReg rs2)) imm s

/-- BGEU (R116): taken when `u(a) >= u(b)`. -/
def execBgeu (rs1 rs2 : RegIdx) (imm : BitVec 13) (s : State) : Result :=
  branchIf (condGeu (s.readReg rs1) (s.readReg rs2)) imm s

end Sys2Proof.Machine
end

