-- ==== Sys2Proof/Machine/Fence.lean ====
section
/-! DEFINITION. FENCE and FENCE.I (`spec/48_fence.md`): "no-op at this simulation fidelity (single-hart, no cache
model)"; their fields are delivered and ignored. -/

namespace Sys2Proof.Machine

/-- FENCE (R165): `pc <- pc + 4`. -/
def execFence (_rd _rs1 : RegIdx) (_imm : BitVec 12) (s : State) : Result := commitNothing s

/-- FENCE.I (R166): `pc <- pc + 4`. -/
def execFenceI (_rd _rs1 : RegIdx) (_imm : BitVec 12) (s : State) : Result := commitNothing s

end Sys2Proof.Machine
end

