-- ==== Sys2Proof/Machine/Jumps.lean ====
section
/-! DEFINITION. JAL and JALR (`spec/42_jumps.md`). -/

namespace Sys2Proof.Machine

/-- JAL (R105): `target <- pc + sext_21(imm)`. -/
def execJal (rd : RegIdx) (imm : BitVec 21) (s : State) : Result := jumpAndLink rd (s.pcRel imm) s

/-- JALR (R106): `target <- (x[rs1] + sext_12(imm)) & 0xFFFFFFFE`, the old `x[rs1]` even when `rd = rs1`. -/
def execJalr (rd rs1 : RegIdx) (imm : BitVec 12) (s : State) : Result := jumpAndLink rd (s.jalrTarget rs1 imm) s

end Sys2Proof.Machine
end

