-- ==== Sys2Proof/Machine/Loads.lean ====
section
/-! DEFINITION. The five loads (`spec/44_loads.md`). -/

namespace Sys2Proof.Machine

/-- LB (R121): one byte, sign-extended. -/
def execLb (rd rs1 : RegIdx) (imm : BitVec 12) (s : State) : Result :=
  loadTo rd (s.effAddr rs1 imm) (s.memRead8 (s.effAddr rs1 imm)) sext s

/-- LH (R122): two bytes, sign-extended. -/
def execLh (rd rs1 : RegIdx) (imm : BitVec 12) (s : State) : Result :=
  loadTo rd (s.effAddr rs1 imm) (s.memRead16 (s.effAddr rs1 imm)) sext s

/-- LW (R123): four bytes, as they are. -/
def execLw (rd rs1 : RegIdx) (imm : BitVec 12) (s : State) : Result :=
  loadTo rd (s.effAddr rs1 imm) (s.memRead32 (s.effAddr rs1 imm)) id s

/-- LBU (R124): one byte, zero-extended. -/
def execLbu (rd rs1 : RegIdx) (imm : BitVec 12) (s : State) : Result :=
  loadTo rd (s.effAddr rs1 imm) (s.memRead8 (s.effAddr rs1 imm)) zext s

/-- LHU (R125): two bytes, zero-extended. -/
def execLhu (rd rs1 : RegIdx) (imm : BitVec 12) (s : State) : Result :=
  loadTo rd (s.effAddr rs1 imm) (s.memRead16 (s.effAddr rs1 imm)) zext s

end Sys2Proof.Machine
end

