-- ==== Sys2Proof/Machine/Stores.lean ====
section
/-! DEFINITION. The three stores (`spec/45_stores.md`). -/

namespace Sys2Proof.Machine

/-- SB (R131): the low byte of `x[rs2]`. -/
def execSb (rs1 rs2 : RegIdx) (imm : BitVec 12) (s : State) : Result := storeAt (s.effAddr rs1 imm) 1 (s.readReg rs2) s

/-- SH (R132): the low two bytes of `x[rs2]`. -/
def execSh (rs1 rs2 : RegIdx) (imm : BitVec 12) (s : State) : Result := storeAt (s.effAddr rs1 imm) 2 (s.readReg rs2) s

/-- SW (R133): the four bytes of `x[rs2]`. -/
def execSw (rs1 rs2 : RegIdx) (imm : BitVec 12) (s : State) : Result := storeAt (s.effAddr rs1 imm) 4 (s.readReg rs2) s

end Sys2Proof.Machine
end

