-- ==== Sys2Proof/Machine/Bridge.lean ====
section
/-! DEFINITION. The host-syscall bridge of `spec/49_system.md` (rules R172 to R180), called by ECALL. What
the host answers is an input: the next entry of `hostReplies`, and a free value of `Config` where that list
is empty (log 2). What is handed to the host is recorded in `hostCalls` (log 3). -/

namespace Sys2Proof.Machine

/-! ## The host's answer -/

/-- The host's answer to the call being made: "a draw from the host" (R174, R175, R178). -/
def State.hostReply (s : State) : HostReply :=
  match s.hostReplies with
  | r :: _ => r
  | [] => ⟨Config.hostResult s.hostCalls.length, []⟩

/-- The `k`-th byte the host delivers in the call being made (R175). -/
def State.hostByte (s : State) (k : Nat) : Byte :=
  match s.hostReply.data[k]? with
  | some b => b
  | none => Config.hostByte s.hostCalls.length k

/-- The bytes a `read` moves (R175): exactly `r` of them when `0 <= r <= count`; none when the result is no
such count (a failure the host reports; log 11). DESIGN CHOICE (log 17): `r` is read unsigned here, as `count` is
(R174, R175), which the rule does not say of the answer. -/
def State.delivered (s : State) (count : Word) : List Byte :=
  if s.hostReply.result.toNat ≤ count.toNat then (List.range s.hostReply.result.toNat).map s.hostByte else []

/-- Hands something to the host. -/
def State.tellHost (s : State) (c : HostCall) : State := { s with hostCalls := s.hostCalls ++ [c] }

/-- A call the host has answered (R172: the step does not end before). -/
def State.callHost (s : State) (c : HostCall) : State :=
  { s.tellHost c with hostReplies := s.hostReplies.tail }

/-! ## The three system calls -/

/-- `a0 = x[10]`: the first argument and the return value (R13, R173). -/
def regA0 : RegIdx := argReg 0#3

/-- R180: the whole buffer is in memory, checked before any byte moves and before the host is called. -/
def State.bufferOk (s : State) : Bool := s.accessOk (s.arg 1#3) (s.arg 2#3).toNat

/-- What `write` hands to the host (R174): the descriptor and the `count` bytes at `buffer_addr`, ascending. -/
def State.writeCall (s : State) : HostCall :=
  .write (s.arg 0#3) (s.mem.readBytes (s.arg 1#3).toNat (s.arg 2#3).toNat)

/-- `write(fd, buffer_addr, count)` (R174): memory is not changed. -/
def bridgeWrite (s : State) : Result :=
  if s.bufferOk then .next ((s.callHost s.writeCall).writeReg regA0 s.hostReply.result).advance
  else raiseFault .memOob (s.arg 1#3) s

/-- `read(fd, buffer_addr, count)` (R175): the delivered bytes go to the buffer, ascending. -/
def bridgeRead (s : State) : Result :=
  if s.bufferOk then
    .next (({ s.callHost (.read (s.arg 0#3) (s.arg 2#3)) with
      mem := s.mem.writeBytes (s.arg 1#3).toNat (s.delivered (s.arg 2#3)) }).writeReg regA0 s.hostReply.result).advance
  else raiseFault .memOob (s.arg 1#3) s

/-- `exit(code)` (R176): no register is written; `pc` advances all the same (R170). -/
def bridgeExit (s : State) : Result :=
  .next (({ s.tellHost (.exit (s.arg 0#3)) with exitCode := s.arg 0#3 }).finish .exit).advance

/-! ## The deterministic simulator oracle (R174, R175, R178, decision D22) -/

/-- The answer of the spec's test oracle to a call, with `input` the bytes still to be read from the
descriptor: `write` answers its count, `read` delivers what there is up to `count`, and a descriptor above 2
answers `0xFFFFFFFF` and moves nothing. No meaning uses it; a test puts it into `hostReplies`. -/
def oracleReply (input : List Byte) : HostCall → HostReply
  | .write fd bytes => if fd.toNat ≤ 2 then ⟨BitVec.ofNat 32 bytes.length, []⟩ else ⟨0xFFFFFFFF#32, []⟩
  | .read fd count =>
    if fd.toNat ≤ 2 then ⟨BitVec.ofNat 32 (input.take count.toNat).length, input.take count.toNat⟩
    else ⟨0xFFFFFFFF#32, []⟩
  | .exit _ => ⟨0#32, []⟩

end Sys2Proof.Machine
end

