-- ==== Sys2Proof/Machine/System.lean ====
section
/-! DEFINITION. ECALL and EBREAK (`spec/49_system.md`). -/

namespace Sys2Proof.Machine

/-- ECALL (R170): the system call `x[SYSCALL_ID_REG]` names, an error when it names none (R177). -/
def execEcall (s : State) : Result :=
  if s.syscallId = s.params.sysWrite then bridgeWrite s
  else if s.syscallId = s.params.sysRead then bridgeRead s
  else if s.syscallId = s.params.sysExit then bridgeExit s
  else raiseFault .syscallUnknown s.syscallId s

/-- EBREAK (R171): `terminated <- 1; term_cause <- EBREAK; pc <- pc + 4`. -/
def execEbreak (s : State) : Result := .next (s.finish .ebreak).advance

end Sys2Proof.Machine
end

