-- ==== Sys2Proof/Machine/UpperImmediate.lean ====
section
/-! DEFINITION. LUI and AUIPC (`spec/41_upper_immediate.md`). -/

namespace Sys2Proof.Machine

/-- LUI (R100): `x[rd] <- imm ++ 0x000`. -/
def execLui (rd : RegIdx) (imm : BitVec 20) (s : State) : Result := commitReg rd (upperImm imm) s

/-- AUIPC (R101): `x[rd] <- pc + (imm ++ 0x000)`, `pc` the address of this AUIPC. -/
def execAuipc (rd : RegIdx) (imm : BitVec 20) (s : State) : Result := commitReg rd (aluAdd s.pc (upperImm imm)) s

end Sys2Proof.Machine
end

