-- ==== Sys2Proof/Machine/Fetch.lean ====
section
/-! DEFINITION. What a step does before it executes (`spec/40_datapath.md` rules R80, R81): the latched
states, the two conditions that end a run (`spec/70_reset_and_hazards.md` rules R220, R221), fetch and
decode, in the order of rule R197; and how an instruction is placed where the next step fetches. -/

namespace Sys2Proof.Machine

/-- `fetch()` (R81): `MemRead(pc, 4)`; none is `Fault(ERR_MEM_OOB, pc)`. -/
def State.fetch (s : State) : Option Word := s.memRead32 s.pc

/-- A range that holds the whole word at `pc` (R221). -/
def ExecRange.holdsWordAt (r : ExecRange) (pc : Word) : Bool := decide (r.start ≤ pc.toNat ∧ pc.toNat + 4 ≤ r.stop)

/-- "`pc` in `exec_ranges`" (R221). -/
def State.pcExecutable (s : State) : Bool := s.execRanges.any (fun r => r.holdsWordAt s.pc)

/-- What a step finds before it executes anything. -/
inductive Front where
  /-- A latched error or a finished run: the step does nothing (R80, R18, R17). -/
  | stopped
  /-- The run ends here, without a fetch (R220, R221). -/
  | ends (cause : TermCause)
  /-- Fetch or decode fails (R81, R186, R187). -/
  | fails (code : ErrCode) (info : Word)
  /-- The instruction to execute. -/
  | runs (i : Instr)
deriving DecidableEq, Repr

/-- Decode of a fetched word; the error records the word (R186, R187). -/
def frontOfWord (w : Word) : Front :=
  match decode w with
  | .ok i => .runs i
  | .error .opcode => .fails .decodeOpcode w
  | .error .subselect => .fails .decodeSubselect w

/-- The lines of `step()` before `execute` (R80), in the order of R197. -/
def State.front (s : State) : Front :=
  if s.fault.code ≠ .ok then .stopped
  else if s.terminated then .stopped
  else if s.pc = s.params.haltSentinel then .ends .sentinel
  else if s.pcExecutable then
    match s.fetch with
    | some w => frontOfWord w
    | none => .fails .memOob s.pc
  else .ends .hostAbort

/-! ## Placing an instruction for the next step -/

/-- Adds a range to the set (R42). -/
def addRange (rs : List ExecRange) (r : ExecRange) : List ExecRange := if rs.contains r then rs else rs ++ [r]

/-- An address the next step can fetch from: `pc` itself unless it is the sentinel or its word passes the end
of memory, then address 0 or 4 (log 7). -/
def State.fetchSite (s : State) : Word :=
  ([s.pc, 0#32, 4#32].find? (fun a => a != s.params.haltSentinel && s.accessOk a 4)).getD s.pc

/-- The word stored where the next step fetches, inside an executable range, with the run neither ended nor
faulted (log 7). -/
def State.placeWord (s : State) (w : Word) : State :=
  { s with
    pc := s.fetchSite
    mem := s.mem.writeBytes s.fetchSite.toNat (bytesOfWord w)
    terminated := false
    termCause := .none
    fault := ⟨.ok, 0#32⟩
    execRanges := addRange s.execRanges ⟨s.fetchSite.toNat, s.fetchSite.toNat + 4⟩ }

end Sys2Proof.Machine
end

