-- ==== Sys2Proof/Machine/Cycle.lean ====
section
/-! DEFINITION. One step of the machine (`spec/40_datapath.md` rule R80), over what `Fetch.lean` finds. -/

namespace Sys2Proof.Machine

/-- `step()` (R80). A stopped machine does nothing; the end of a run sets `terminated` and its cause; an error
of fetch or decode is latched; an instruction is executed. -/
def cycle (s : State) : Result :=
  match s.front with
  | .stopped => .next s
  | .ends cause => .next (s.finish cause)
  | .fails code info => raiseFault code info s
  | .runs i => exec i s

end Sys2Proof.Machine
end

