-- ==== Sys2Proof/Machine/Step.lean ====
section
/-! DEFINITION. The machine's one transition and the placing of its next instruction; both only call
`Cycle.lean` and `Fetch.lean`. -/

namespace Sys2Proof.Machine

/-- `step()` (R80). -/
def step (s : State) : Host.Outcome State Fault Refusal := cycle s

/-- `s` with the table's instruction `w` stored where `step` fetches next (log 7). -/
def State.withFetchWord (s : State) (nbits w : Nat) : State := s.placeWord (tableWord nbits w)

end Sys2Proof.Machine
end

