-- ==== Sys2Proof/Machine/Interface.lean ====
section
/-! DEFINITION. What the host reads without changing anything (`spec/10_state.md` rules R17, R23, R24) and
the one diagnostic output with a stated content, `warn_misaligned(addr, n)` (`spec/20_memory.md` rule R35,
`spec/60_exceptions.md` rule R203). The diagnostic "does not change any state and no rule reads it", so it
is a function of the instruction and the state (log 12). -/

namespace Sys2Proof.Machine

/-- `is_finished()` (R17): a latched error is not a finished run (R18). -/
def State.isFinished (s : State) : Bool := s.terminated

/-- The code a step returns, read off the state it leaves: the latched code, `OK` where none is latched (R80,
R18; log 4). -/
def State.status (s : State) : ErrCode := s.fault.code

/-- `size()` (R30). -/
def State.size (s : State) : Nat := s.params.memSize

/-- What `dump()` shows (R24): the registers, `pc` and a window of memory. -/
structure Dump where
  x : List Word
  pc : Word
  window : List Byte
deriving DecidableEq, Repr

/-- `dump()` with a window of `n` bytes at `a` (R24; log 16). -/
def State.dump (s : State) (a n : Nat) : Dump where
  x := (List.range 32).map (fun i => s.readReg (BitVec.ofNat 5 i))
  pc := s.pc
  window := s.mem.readBytes a n

/-- A data access: its address and its size in bytes. -/
structure Access where
  addr : Word
  bytes : Nat
deriving DecidableEq, Repr

/-- The data access of an instruction (R36); the bridge moves single bytes, which are never misaligned. -/
def dataAccess (i : Instr) (s : State) : Option Access :=
  match i with
  | .lb _ rs1 imm => some ⟨s.effAddr rs1 imm, 1⟩
  | .lh _ rs1 imm => some ⟨s.effAddr rs1 imm, 2⟩
  | .lw _ rs1 imm => some ⟨s.effAddr rs1 imm, 4⟩
  | .lbu _ rs1 imm => some ⟨s.effAddr rs1 imm, 1⟩
  | .lhu _ rs1 imm => some ⟨s.effAddr rs1 imm, 2⟩
  | .sb rs1 _ imm => some ⟨s.effAddr rs1 imm, 1⟩
  | .sh rs1 _ imm => some ⟨s.effAddr rs1 imm, 2⟩
  | .sw rs1 _ imm => some ⟨s.effAddr rs1 imm, 4⟩
  | .lui _ _ | .auipc _ _ | .jal _ _ | .jalr _ _ _ | .beq _ _ _ | .bne _ _ _
  | .blt _ _ _ | .bge _ _ _ | .bltu _ _ _ | .bgeu _ _ _ | .addi _ _ _ | .slti _ _ _
  | .sltiu _ _ _ | .xori _ _ _ | .ori _ _ _ | .andi _ _ _ | .slli _ _ _ | .srli _ _ _
  | .srai _ _ _ | .add _ _ _ | .sub _ _ _ | .sll _ _ _ | .slt _ _ _ | .sltu _ _ _
  | .xor _ _ _ | .srl _ _ _ | .sra _ _ _ | .or _ _ _ | .and _ _ _ | .fence _ _ _
  | .fenceI _ _ _ | .ecall | .ebreak => none

/-- `warn_misaligned(addr, n)` (R35, R203): raised for each access of 2 or 4 bytes that is made at an address
that is not a multiple of its size. -/
def warnMisaligned (i : Instr) (s : State) : Option Access :=
  (dataAccess i s).filter (fun a => s.accessOk a.addr a.bytes && decide (a.addr.toNat % a.bytes ≠ 0))

end Sys2Proof.Machine
end

