-- ==== Sys2Proof/Machine/Launch.lean ====
section
/-! DEFINITION. The launch: `map`, `init` and the order of a launch (`spec/20_memory.md` rules R42, R43;
`spec/70_reset_and_hazards.md` rules R214, R216 to R219). These are the host's transactions (R23); no
instruction performs one. -/

namespace Sys2Proof.Machine

/-- A segment `(start_addr, end_addr, bytes)` (R6, R218). -/
structure Segment where
  start : Nat
  stop : Nat
  bytes : List Byte
deriving DecidableEq, Repr

/-- R42: the range is inside memory, not reversed, and as long as its bytes. -/
def Segment.fits (g : Segment) (size : Nat) : Bool :=
  decide (g.stop ≤ size ∧ g.start ≤ g.stop ∧ g.bytes.length = g.stop - g.start)

/-- `map(bytes, start, end)` (R42). -/
def mapSegment (g : Segment) (s : State) : Result :=
  if g.fits s.params.memSize then
    .next { s with
      mem := s.mem.writeBytes g.start g.bytes
      execRanges := if g.start < g.stop then addRange s.execRanges ⟨g.start, g.stop⟩ else s.execRanges }
  else .fault (.mapOutOfBounds g.start g.stop)

/-- The `map` calls of a launch, in the order supplied (R216); the first error ends it. -/
def mapAll : List Segment → State → Result
  | [], s => .next s
  | g :: gs, s =>
    match mapSegment g s with
    | .next t => mapAll gs t
    | .fault f => .fault f
    | .refused r => .refused r

/-- The state `init(entry_point)` leaves (R214): `mem` and `exec_ranges` are not touched. -/
def State.initAt (s : State) (entryPoint : Word) : State :=
  (({ s with
      regs := Vector.replicate 31 0#32
      pc := entryPoint
      terminated := false
      termCause := .none
      exitCode := 0#32
      fault := ⟨.ok, 0#32⟩ }).writeReg 1#5 s.params.haltSentinel).writeReg 2#5 (BitVec.ofNat 32 (s.params.memSize - 4))

/-- `init(entry_point)` (R214, R217). -/
def init (entryPoint : Word) (s : State) : Result :=
  if aligned entryPoint then .next (s.initAt entryPoint) else .refused (.entryPointMisaligned entryPoint)

/-- Two segments do not overlap (R43): `end_i <= start_j` or `end_j <= start_i`. -/
def Segment.disjoint (g h : Segment) : Bool := decide (g.stop ≤ h.start ∨ h.stop ≤ g.start)

/-- Every two distinct segments are disjoint (R43, R218). -/
def segmentsDisjoint : List Segment → Bool
  | [] => true
  | g :: gs => gs.all g.disjoint && segmentsDisjoint gs

/-- R219: a multiple of 4 that lies in no mapped segment. -/
def sentinelPlaced (p : Params) (gs : List Segment) : Bool :=
  aligned p.haltSentinel &&
    gs.all (fun g => decide (p.haltSentinel.toNat < g.start ∨ g.stop ≤ p.haltSentinel.toNat))

/-- A launch: `reset`, one `map` per segment, `init` (R216), refused where the spec gives it no meaning (R43,
R217, R219) and ended by the error of a `map` (R195). -/
def launch (p : Params) (gs : List Segment) (entryPoint : Word) : Result :=
  if segmentsDisjoint gs then
    if sentinelPlaced p gs then
      match mapAll gs (State.resetWith p) with
      | .next s => init entryPoint s
      | .fault f => .fault f
      | .refused r => .refused r
    else .refused .sentinelMisplaced
  else .refused .segmentsOverlap

end Sys2Proof.Machine
end

