-- ==== Sys2Proof/Safety.lean ====
section
/-! DEFINITION. The terms in which statements about the machine are made: what a completed instruction
changed and what it left alone, when a run has ended (`spec/70_reset_and_hazards.md` rule R222), the states a
launch can reach, and the invariant of every such state. -/

namespace Sys2Proof.Machine

/-! ## What a step changed -/

/-- The meaning answers a next state, and `P` holds of it. -/
def Completes (r : Result) (P : State → Prop) : Prop := ∃ t, r = .next t ∧ P t

/-- The step is `raise Fault(code, info)` (R198): the latch is set and every other field is as before. -/
def Raises (r : Result) (s : State) (code : ErrCode) (info : Word) : Prop :=
  r = .next { s with fault := ⟨code, info⟩ }

/-- Everything but the registers, `pc` and memory is as before. -/
structure SameControl (s t : State) : Prop where
  terminated : t.terminated = s.terminated
  termCause : t.termCause = s.termCause
  exitCode : t.exitCode = s.exitCode
  fault : t.fault = s.fault
  execRanges : t.execRanges = s.execRanges
  params : t.params = s.params
  hostReplies : t.hostReplies = s.hostReplies
  hostCalls : t.hostCalls = s.hostCalls

/-- Every byte of memory reads as before. -/
def SameBytes (s t : State) : Prop := ∀ a, t.mem.read a = s.mem.read a

/-- Every register reads as before. -/
def SameRegs (s t : State) : Prop := ∀ r, t.readReg r = s.readReg r

/-- Only the `n` bytes from `a` on may read otherwise than before. -/
def SameBytesOutside (s t : State) (a n : Nat) : Prop := ∀ b, b < a ∨ a + n ≤ b → t.mem.read b = s.mem.read b

/-- Register `rd` holds `v` (register 0 still reads 0), `pc` is `next`; nothing else changed. -/
structure WroteReg (s t : State) (rd : RegIdx) (v next : Word) : Prop where
  result : t.readReg rd = if rd = 0#5 then 0#32 else v
  others : ∀ r, r ≠ rd → t.readReg r = s.readReg r
  pc : t.pc = next
  bytes : SameBytes s t
  control : SameControl s t

/-- `pc` is `next`; nothing else changed. -/
structure MovedPc (s t : State) (next : Word) : Prop where
  regs : SameRegs s t
  pc : t.pc = next
  bytes : SameBytes s t
  control : SameControl s t

/-- The `n` bytes from `a` on hold the low `n` bytes of `v`, least significant first, `pc` is `next`; nothing
else changed. -/
structure Stored (s t : State) (a n : Nat) (v next : Word) : Prop where
  stored : ∀ k < n, t.mem.read (a + k) = v.extractLsb' (8 * k) 8
  outside : SameBytesOutside s t a n
  regs : SameRegs s t
  pc : t.pc = next
  control : SameControl s t

/-! ## The shape of a family's rule

Each says, for one instruction, which words it decodes from (fields written out in the order of the layout, most
significant first), that it completes, and with what. -/

/-- Two-register-and-destination instructions (R52, R150): `f` of the two registers. -/
def RegRule (funct7 : BitVec 7) (funct3 : BitVec 3) (i : RegIdx → RegIdx → RegIdx → Instr) (f : Word → Word → Word) :
    Prop :=
  ∀ (rd rs1 rs2 : RegIdx) (s : State),
    decode (funct7 ++ rs2 ++ rs1 ++ funct3 ++ rd ++ 0b0110011#7) = .ok (i rd rs1 rs2) ∧
    Completes (exec (i rd rs1 rs2) s) (fun t => WroteReg s t rd (f (s.readReg rs1) (s.readReg rs2)) (s.pc + 4#32))

/-- Register-immediate instructions but for the shifts (R53, R135): `f` of the register and the sign-extended
immediate. -/
def ImmRule (funct3 : BitVec 3) (i : RegIdx → RegIdx → BitVec 12 → Instr) (f : Word → Word → Word) : Prop :=
  ∀ (rd rs1 : RegIdx) (imm : BitVec 12) (s : State),
    decode (imm ++ rs1 ++ funct3 ++ rd ++ 0b0010011#7) = .ok (i rd rs1 imm) ∧
    Completes (exec (i rd rs1 imm) s) (fun t => WroteReg s t rd (f (s.readReg rs1) (imm.signExtend 32)) (s.pc + 4#32))

/-- Shifts by an immediate (R59, R135): the selector `sel` and the amount `shamt` make the immediate; `f` of the
register and the amount. -/
def ShiftRule (sel : BitVec 7) (funct3 : BitVec 3) (i : RegIdx → RegIdx → BitVec 12 → Instr) (f : Word → Nat → Word) :
    Prop :=
  ∀ (rd rs1 : RegIdx) (shamt : BitVec 5) (s : State),
    decode (sel ++ shamt ++ rs1 ++ funct3 ++ rd ++ 0b0010011#7) = .ok (i rd rs1 (sel ++ shamt)) ∧
    Completes (exec (i rd rs1 (sel ++ shamt)) s)
      (fun t => WroteReg s t rd (f (s.readReg rs1) shamt.toNat) (s.pc + 4#32))

/-- Branches (R55, R110): not taken; taken to an aligned target; taken to a misaligned one. -/
def BranchRule (funct3 : BitVec 3) (i : RegIdx → RegIdx → BitVec 13 → Instr) (cond : Word → Word → Prop) : Prop :=
  (∀ (b12 : BitVec 1) (b10_5 : BitVec 6) (rs2 rs1 : RegIdx) (b4_1 : BitVec 4) (b11 : BitVec 1),
    decode (b12 ++ b10_5 ++ rs2 ++ rs1 ++ funct3 ++ b4_1 ++ b11 ++ 0b1100011#7) =
      .ok (i rs1 rs2 (b12 ++ b11 ++ b10_5 ++ b4_1 ++ 0#1))) ∧
  ∀ (rs1 rs2 : RegIdx) (imm : BitVec 13) (s : State),
    (¬ cond (s.readReg rs1) (s.readReg rs2) →
      Completes (exec (i rs1 rs2 imm) s) (fun t => MovedPc s t (s.pc + 4#32))) ∧
    (cond (s.readReg rs1) (s.readReg rs2) → (s.pc + imm.signExtend 32).toNat % 4 = 0 →
      Completes (exec (i rs1 rs2 imm) s) (fun t => MovedPc s t (s.pc + imm.signExtend 32))) ∧
    (cond (s.readReg rs1) (s.readReg rs2) → (s.pc + imm.signExtend 32).toNat % 4 ≠ 0 →
      Raises (exec (i rs1 rs2 imm) s) s .misalignedTarget (s.pc + imm.signExtend 32))

/-- Loads of `n` bytes (R53, R120): `value` of the memory and the address, with the diagnostic exactly when the
address is no multiple of `n`, or the bounds fault. -/
def LoadRule (funct3 : BitVec 3) (n : Nat) (i : RegIdx → RegIdx → BitVec 12 → Instr) (value : Memory → Nat → Word) :
    Prop :=
  ∀ (rd rs1 : RegIdx) (imm : BitVec 12) (s : State),
    decode (imm ++ rs1 ++ funct3 ++ rd ++ 0b0000011#7) = .ok (i rd rs1 imm) ∧
    s.effAddr rs1 imm = s.readReg rs1 + imm.signExtend 32 ∧
    ((s.effAddr rs1 imm).toNat + n ≤ s.params.memSize →
      Completes (exec (i rd rs1 imm) s)
        (fun t => WroteReg s t rd (value s.mem (s.effAddr rs1 imm).toNat) (s.pc + 4#32)) ∧
      (warnMisaligned (i rd rs1 imm) s = some ⟨s.effAddr rs1 imm, n⟩ ↔ (s.effAddr rs1 imm).toNat % n ≠ 0)) ∧
    (s.params.memSize < (s.effAddr rs1 imm).toNat + n →
      Raises (exec (i rd rs1 imm) s) s .memOob (s.effAddr rs1 imm))

/-- Stores of `n` bytes (R54, R130): the low bytes of the register at the address, with the diagnostic exactly when
the address is no multiple of `n`, or the bounds fault. Memory is in canonical form, as `State.Inv` says it always
is. -/
def StoreRule (funct3 : BitVec 3) (n : Nat) (i : RegIdx → RegIdx → BitVec 12 → Instr) : Prop :=
  (∀ (hi : BitVec 7) (rs2 rs1 : RegIdx) (lo : BitVec 5),
    decode (hi ++ rs2 ++ rs1 ++ funct3 ++ lo ++ 0b0100011#7) = .ok (i rs1 rs2 (hi ++ lo))) ∧
  ∀ (rs1 rs2 : RegIdx) (imm : BitVec 12) (s : State), s.mem.wf = true →
    s.effAddr rs1 imm = s.readReg rs1 + imm.signExtend 32 ∧
    ((s.effAddr rs1 imm).toNat + n ≤ s.params.memSize →
      Completes (exec (i rs1 rs2 imm) s)
        (fun t => Stored s t (s.effAddr rs1 imm).toNat n (s.readReg rs2) (s.pc + 4#32)) ∧
      (warnMisaligned (i rs1 rs2 imm) s = some ⟨s.effAddr rs1 imm, n⟩ ↔ (s.effAddr rs1 imm).toNat % n ≠ 0)) ∧
    (s.params.memSize < (s.effAddr rs1 imm).toNat + n →
      Raises (exec (i rs1 rs2 imm) s) s .memOob (s.effAddr rs1 imm))

/-! ## What a mnemonic may do -/

/-- The register an instruction may write (R12, R94): `rd`, or `x[10]` for ECALL. -/
def destination : Instr → Option RegIdx
  | .lui rd _ | .auipc rd _ | .jal rd _ | .jalr rd _ _ => some rd
  | .lb rd _ _ | .lh rd _ _ | .lw rd _ _ | .lbu rd _ _ | .lhu rd _ _ => some rd
  | .addi rd _ _ | .slti rd _ _ | .sltiu rd _ _ | .xori rd _ _ | .ori rd _ _ | .andi rd _ _ => some rd
  | .slli rd _ _ | .srli rd _ _ | .srai rd _ _ => some rd
  | .add rd _ _ | .sub rd _ _ | .sll rd _ _ | .slt rd _ _ | .sltu rd _ _ => some rd
  | .xor rd _ _ | .srl rd _ _ | .sra rd _ _ | .or rd _ _ | .and rd _ _ => some rd
  | .ecall => some 10#5
  | .beq _ _ _ | .bne _ _ _ | .blt _ _ _ | .bge _ _ _ | .bltu _ _ _ | .bgeu _ _ _ => none
  | .sb _ _ _ | .sh _ _ _ | .sw _ _ _ | .fence _ _ _ | .fenceI _ _ _ | .ebreak => none

/-- The bytes of memory an instruction may write, first and number (R36): those a store stores to, and the buffer
of the system call `read`. -/
def writeSpan (s : State) : Instr → Nat × Nat
  | .sb rs1 _ imm => ((s.effAddr rs1 imm).toNat, 1)
  | .sh rs1 _ imm => ((s.effAddr rs1 imm).toNat, 2)
  | .sw rs1 _ imm => ((s.effAddr rs1 imm).toNat, 4)
  | .ecall => if s.readReg s.params.syscallIdReg = s.params.sysRead
      then ((s.readReg 11#5).toNat, (s.readReg 12#5).toNat) else (0, 0)
  | .lui _ _ | .auipc _ _ | .jal _ _ | .jalr _ _ _ | .beq _ _ _ | .bne _ _ _ | .blt _ _ _ | .bge _ _ _ => (0, 0)
  | .bltu _ _ _ | .bgeu _ _ _ | .lb _ _ _ | .lh _ _ _ | .lw _ _ _ | .lbu _ _ _ | .lhu _ _ _ => (0, 0)
  | .addi _ _ _ | .slti _ _ _ | .sltiu _ _ _ | .xori _ _ _ | .ori _ _ _ | .andi _ _ _ => (0, 0)
  | .slli _ _ _ | .srli _ _ _ | .srai _ _ _ | .add _ _ _ | .sub _ _ _ | .sll _ _ _ | .slt _ _ _ => (0, 0)
  | .sltu _ _ _ | .xor _ _ _ | .srl _ _ _ | .sra _ _ _ | .or _ _ _ | .and _ _ _ => (0, 0)
  | .fence _ _ _ | .fenceI _ _ _ | .ebreak => (0, 0)

/-- The next `pc` of a completing instruction (R95). -/
def nextPc (s : State) : Instr → Word
  | .jal _ imm => s.pc + imm.signExtend 32
  | .jalr _ rs1 imm => (s.readReg rs1 + imm.signExtend 32) &&& 0xFFFFFFFE#32
  | .beq rs1 rs2 imm => if s.readReg rs1 = s.readReg rs2 then s.pc + imm.signExtend 32 else s.pc + 4#32
  | .bne rs1 rs2 imm => if s.readReg rs1 ≠ s.readReg rs2 then s.pc + imm.signExtend 32 else s.pc + 4#32
  | .blt rs1 rs2 imm =>
    if (s.readReg rs1).toInt < (s.readReg rs2).toInt then s.pc + imm.signExtend 32 else s.pc + 4#32
  | .bge rs1 rs2 imm =>
    if (s.readReg rs2).toInt ≤ (s.readReg rs1).toInt then s.pc + imm.signExtend 32 else s.pc + 4#32
  | .bltu rs1 rs2 imm =>
    if (s.readReg rs1).toNat < (s.readReg rs2).toNat then s.pc + imm.signExtend 32 else s.pc + 4#32
  | .bgeu rs1 rs2 imm =>
    if (s.readReg rs2).toNat ≤ (s.readReg rs1).toNat then s.pc + imm.signExtend 32 else s.pc + 4#32
  | .lui _ _ | .auipc _ _ | .lb _ _ _ | .lh _ _ _ | .lw _ _ _ | .lbu _ _ _ | .lhu _ _ _ => s.pc + 4#32
  | .sb _ _ _ | .sh _ _ _ | .sw _ _ _ => s.pc + 4#32
  | .addi _ _ _ | .slti _ _ _ | .sltiu _ _ _ | .xori _ _ _ | .ori _ _ _ | .andi _ _ _ => s.pc + 4#32
  | .slli _ _ _ | .srli _ _ _ | .srai _ _ _ | .add _ _ _ | .sub _ _ _ | .sll _ _ _ | .slt _ _ _ => s.pc + 4#32
  | .sltu _ _ _ | .xor _ _ _ | .srl _ _ _ | .sra _ _ _ | .or _ _ _ | .and _ _ _ => s.pc + 4#32
  | .fence _ _ _ | .fenceI _ _ _ | .ecall | .ebreak => s.pc + 4#32

/-- The errors the execution of an instruction can raise (R197, item 4). -/
def mayRaise : Instr → ErrCode → Prop
  | .jal _ _, c | .jalr _ _ _, c => c = .misalignedTarget
  | .beq _ _ _, c | .bne _ _ _, c | .blt _ _ _, c => c = .misalignedTarget
  | .bge _ _ _, c | .bltu _ _ _, c | .bgeu _ _ _, c => c = .misalignedTarget
  | .lb _ _ _, c | .lh _ _ _, c | .lw _ _ _, c | .lbu _ _ _, c | .lhu _ _ _, c => c = .memOob
  | .sb _ _ _, c | .sh _ _ _, c | .sw _ _ _, c => c = .memOob
  | .ecall, c => c = .memOob ∨ c = .syscallUnknown
  | .lui _ _, _ | .auipc _ _, _ | .fence _ _ _, _ | .fenceI _ _ _, _ | .ebreak, _ => False
  | .addi _ _ _, _ | .slti _ _ _, _ | .sltiu _ _ _, _ | .xori _ _ _, _ | .ori _ _ _, _ | .andi _ _ _, _ => False
  | .slli _ _ _, _ | .srli _ _ _, _ | .srai _ _ _, _ | .add _ _ _, _ | .sub _ _ _, _ | .sll _ _ _, _ => False
  | .slt _ _ _, _ | .sltu _ _ _, _ | .xor _ _ _, _ | .srl _ _ _, _ | .sra _ _ _, _ => False
  | .or _ _ _, _ | .and _ _ _, _ => False

/-- The word at `pc`, read little-endian (R50). -/
def State.wordAtPc (s : State) : Word :=
  s.mem.read (s.pc.toNat + 3) ++ s.mem.read (s.pc.toNat + 2) ++ s.mem.read (s.pc.toNat + 1) ++ s.mem.read s.pc.toNat

/-- A step gets as far as decoding: no error latched, the run not finished, `pc` not the sentinel, the whole word
at `pc` inside one executable range and inside memory (R80). -/
structure State.Fetches (s : State) : Prop where
  noError : s.fault.code = .ok
  running : s.terminated = false
  notSentinel : s.pc ≠ s.params.haltSentinel
  inRange : ∃ r ∈ s.execRanges, r.start ≤ s.pc.toNat ∧ s.pc.toNat + 4 ≤ r.stop
  inMemory : s.pc.toNat + 4 ≤ s.params.memSize

/-! ## The end of a run (R222) -/

/-- The run has ended: terminated, or an error latched. -/
def State.ended (s : State) : Bool := s.terminated || s.fault.code != .ok

/-- It ended normally. -/
def State.endedNormally (s : State) : Bool :=
  s.termCause == .ebreak || s.termCause == .exit || s.termCause == .sentinel

/-- It ended abnormally. -/
def State.endedAbnormally (s : State) : Bool := s.termCause == .hostAbort || s.fault.code != .ok

/-! ## Runs -/

/-- A state that `init` of a launch leaves (R216). -/
def Launched (s : State) : Prop := ∃ p gs entryPoint, p.wf ∧ launch p gs entryPoint = .next s

/-- A state of a run (R222): a launched state, or what a step gives from one. -/
inductive Reachable : State → Prop where
  | start {s : State} (h : Launched s) : Reachable s
  | step {s t : State} (hs : Reachable s) (h : step s = .next t) : Reachable t

/-! ## The invariant -/

/-- What every state of a run satisfies. -/
structure State.Inv (s : State) : Prop where
  /-- The parameters meet their constraints (R5). -/
  params : s.params.wf
  /-- Memory is in canonical form. -/
  memWf : s.mem.wf = true
  /-- There is no byte outside `0 .. MEM_SIZE - 1` (R20). -/
  memBelow : s.mem.below s.params.memSize = true
  /-- `pc mod 4 = 0` (R16). -/
  pcAligned : s.pc.toNat % 4 = 0
  /-- The cause is recorded exactly when the flag is set (R17). -/
  cause : s.terminated = true ↔ s.termCause ≠ .none
  /-- A faulted state is not a finished state (R18). -/
  notBoth : s.fault.code ≠ .ok → s.terminated = false
  /-- `fault = (OK, 0)` while no error is latched (R211). -/
  okInfo : s.fault.code = .ok → s.fault.info = 0#32
  /-- No step raises `ERR_UNKNOWN_INSTR` (R189). -/
  known : s.fault.code ≠ .unknownInstr
  /-- `exit_code` is set by `exit` alone (R17). -/
  exitCode : s.termCause ≠ .exit → s.exitCode = 0#32
  /-- Every executable range is a non-empty part of memory (R42, R221). -/
  ranges : ∀ r ∈ s.execRanges, r.start < r.stop ∧ r.stop ≤ s.params.memSize

end Sys2Proof.Machine
end

