-- ==== Sys2Proof/Certificates/Slice0/Obligations.lean ====
section
/-! DEFINITION. The statements for the provers. Each docstring names the rules or sections of the spec it
formalises; where a clause is a choice the spec marks as its own decision (`92_eei_decisions.md`) or a choice of
this model (a log entry), it says so. -/

open Sys2Proof Sys2Proof.Machine

/-! ## The decoder -/

/-- Words the spec writes out, one or more of every family (`95_test_vectors.md` DV1 to DV50). -/
def Obligations.WrittenWordsDecode : Prop :=
  decode 0x00100093#32 = .ok (.addi 1#5 0#5 1#12) ∧ decode 0x00000063#32 = .ok (.beq 0#5 0#5 0#13) ∧
  decode 0xABCDE2B7#32 = .ok (.lui 5#5 0xABCDE#20) ∧ decode 0xFFFFF517#32 = .ok (.auipc 10#5 0xFFFFF#20) ∧
  decode 0xFF1FF06F#32 = .ok (.jal 0#5 0x1FFFF0#21) ∧ decode 0x800300E7#32 = .ok (.jalr 1#5 6#5 0x800#12) ∧
  decode 0x80629063#32 = .ok (.bne 5#5 6#5 0x1000#13) ∧ decode 0xFFF31283#32 = .ok (.lh 5#5 6#5 0xFFF#12) ∧
  decode 0xFE731FA3#32 = .ok (.sh 6#5 7#5 0xFFF#12) ∧ decode 0x41F35293#32 = .ok (.srai 5#5 6#5 0x41F#12) ∧
  decode 0x407302B3#32 = .ok (.sub 5#5 6#5 7#5) ∧ decode 0x0000100F#32 = .ok (.fenceI 0#5 0#5 0#12) ∧
  decode 0x00000073#32 = .ok .ecall ∧ decode 0x00100073#32 = .ok .ebreak

/-- Every well-formed instruction is what its word decodes to, with every operand at every value the encoding
admits. -/
def Obligations.EncodeThenDecode : Prop := ∀ i : Instr, i.wf = true → decode (encode i) = .ok i

/-- A word that decodes is the word of the instruction it decodes to, and that instruction is well formed: no bit
of a word is dropped, and no two words decode to one instruction. -/
def Obligations.DecodeThenEncode : Prop :=
  ∀ (w : Word) (i : Instr), decode w = .ok i → i.wf = true ∧ encode i = w

/-- A word decodes to a mnemonic exactly when it is an instance of the mnemonic's row of `opcode_table.json`
(`30_encoding.md` sections 6 and 7; the selectors of JALR, the shifts, ARITH-REG, FENCE and SYSTEM are the spec's
decisions D11 to D15). -/
def Obligations.DecodeFollowsOpcodeTable : Prop :=
  ∀ (w : Word) (m : Mnemonic),
    (∃ i, decode w = .ok i ∧ i.mnemonic = m) ↔ w &&& m.row.mask = m.row.pattern

/-- R76: the eleven opcodes, and nothing outside them has a meaning; a word whose low two bits are not `11` is
one of the words without. -/
def Obligations.UnrecognisedOpcodeIsError : Prop :=
  (∀ w : Word, decode w = .error .opcode ↔
    w.extractLsb' 0 7 ∉ [0b0000011#7, 0b0001111#7, 0b0010011#7, 0b0010111#7, 0b0100011#7, 0b0110011#7, 0b0110111#7,
      0b1100011#7, 0b1100111#7, 0b1101111#7, 0b1110011#7]) ∧
  ∀ w : Word, w.extractLsb' 0 2 ≠ 0b11#2 → decode w = .error .opcode

/-- The complete list of conditions under which a recognised opcode has no mnemonic (`30_encoding.md` section 7,
which derives it from its tables and the decisions D11 to D15). The multiply and divide words are among them
(`47_arith_register.md`). -/
def Obligations.SubselectErrorsExactly : Prop :=
  ∀ w : Word, decode w = .error .subselect ↔
    (w.extractLsb' 0 7 = 0x67#7 ∧ w.extractLsb' 12 3 ≠ 0b000#3) ∨
    (w.extractLsb' 0 7 = 0x63#7 ∧ w.extractLsb' 12 3 ∈ [0b010#3, 0b011#3]) ∨
    (w.extractLsb' 0 7 = 0x03#7 ∧ w.extractLsb' 12 3 ∈ [0b011#3, 0b110#3, 0b111#3]) ∨
    (w.extractLsb' 0 7 = 0x23#7 ∧ w.extractLsb' 12 3 ∈ [0b011#3, 0b100#3, 0b101#3, 0b110#3, 0b111#3]) ∨
    (w.extractLsb' 0 7 = 0x13#7 ∧ w.extractLsb' 12 3 = 0b001#3 ∧ w.extractLsb' 25 7 ≠ 0b0000000#7) ∨
    (w.extractLsb' 0 7 = 0x13#7 ∧ w.extractLsb' 12 3 = 0b101#3 ∧
      w.extractLsb' 25 7 ∉ [0b0000000#7, 0b0100000#7]) ∨
    (w.extractLsb' 0 7 = 0x33#7 ∧ w.extractLsb' 25 7 = 0b0100000#7 ∧ w.extractLsb' 12 3 ∉ [0b000#3, 0b101#3]) ∨
    (w.extractLsb' 0 7 = 0x33#7 ∧ w.extractLsb' 25 7 ∉ [0b0000000#7, 0b0100000#7]) ∨
    (w.extractLsb' 0 7 = 0x0F#7 ∧ w.extractLsb' 12 3 ∉ [0b000#3, 0b001#3]) ∨
    (w.extractLsb' 0 7 = 0x73#7 ∧ w ∉ [0x00000073#32, 0x00100073#32])

/-- The fields and the immediates as numbers (`30_encoding.md` sections 1 and 2): "`field = (word >> lo) &
(2^width - 1)`", and each immediate assembled from its parts. -/
def Obligations.FieldsAndImmediatesByPosition : Prop :=
  ∀ w : Word,
    (opcodeField w).toNat = w.toNat % 2 ^ 7 ∧ (rdField w).toNat = w.toNat / 2 ^ 7 % 2 ^ 5 ∧
    (funct3Field w).toNat = w.toNat / 2 ^ 12 % 2 ^ 3 ∧ (rs1Field w).toNat = w.toNat / 2 ^ 15 % 2 ^ 5 ∧
    (rs2Field w).toNat = w.toNat / 2 ^ 20 % 2 ^ 5 ∧ (funct7Field w).toNat = w.toNat / 2 ^ 25 % 2 ^ 7 ∧
    (immI w).toNat = w.toNat / 2 ^ 20 ∧
    (immS w).toNat = w.toNat / 2 ^ 25 * 2 ^ 5 + w.toNat / 2 ^ 7 % 2 ^ 5 ∧
    (immB w).toNat = w.toNat / 2 ^ 31 * 2 ^ 12 + w.toNat / 2 ^ 7 % 2 * 2 ^ 11 + w.toNat / 2 ^ 25 % 2 ^ 6 * 2 ^ 5 +
      w.toNat / 2 ^ 8 % 2 ^ 4 * 2 ∧
    (immU w).toNat = w.toNat / 2 ^ 12 ∧
    (immJ w).toNat = w.toNat / 2 ^ 31 * 2 ^ 20 + w.toNat / 2 ^ 12 % 2 ^ 8 * 2 ^ 12 + w.toNat / 2 ^ 20 % 2 * 2 ^ 11 +
      w.toNat / 2 ^ 21 % 2 ^ 10 * 2

/-! ## The extenders, the ALU, the shift unit and the comparator -/

/-- R9: bit `n` is the sign bit of an `n + 1`-bit value; the bits above it copy it, the others stay, and the
two's-complement value is kept. -/
def Obligations.SignExtenderCopiesSignBit : Prop :=
  ∀ (n : Nat) (v : BitVec (n + 1)), n < 32 →
    (∀ i < 32, (sext v).getLsbD i = if i ≤ n then v.getLsbD i else v.getLsbD n) ∧ (sext v).toInt = v.toInt

/-- R84: the sum and the difference modulo `2^32`; the difference is also the sum with the complement and 1. -/
def Obligations.AdderWrapsModulo : Prop :=
  ∀ a b : Word,
    (aluAdd a b).toNat = (a.toNat + b.toNat) % 2 ^ 32 ∧
    ((aluSub a b).toNat : Int) = ((a.toNat : Int) - b.toNat) % 2 ^ 32 ∧
    aluSub a b = aluAdd a (aluAdd (~~~b) 1#32)

/-- R87 to R90: the three shifts as exact integers, zero fill and sign fill bit by bit, the amount the low five bits
of the immediate or of the register, and a shift by 0 the identity. -/
def Obligations.ShiftUnitComputes : Prop :=
  (∀ (a : Word) (sh : BitVec 5),
    (aluSll a sh).toNat = a.toNat * 2 ^ sh.toNat % 2 ^ 32 ∧
    (aluSrl a sh).toNat = a.toNat / 2 ^ sh.toNat ∧
    (aluSra a sh).toInt = a.toInt / 2 ^ sh.toNat ∧
    (∀ i < 32, (aluSll a sh).getLsbD i = (decide (sh.toNat ≤ i) && a.getLsbD (i - sh.toNat))) ∧
    (∀ i < 32, (aluSrl a sh).getLsbD i = if i + sh.toNat < 32 then a.getLsbD (i + sh.toNat) else false) ∧
    (∀ i < 32, (aluSra a sh).getLsbD i = if i + sh.toNat < 32 then a.getLsbD (i + sh.toNat) else a.getLsbD 31)) ∧
  (∀ imm : BitVec 12, (shamtImm imm).toNat = imm.toNat % 32) ∧
  (∀ v : Word, (shamtReg v).toNat = v.toNat % 32) ∧
  ∀ a : Word, aluSll a 0#5 = a ∧ aluSrl a 0#5 = a ∧ aluSra a 0#5 = a

/-- R86, R92: signed comparison of the two's-complement readings, unsigned comparison of the raw patterns, as
the value 1 or 0 and as the branch decision. -/
def Obligations.ComparatorReadsSignedAndUnsigned : Prop :=
  ∀ a b : Word,
    (a.toInt < b.toInt → aluSlt a b = 1#32) ∧ (b.toInt ≤ a.toInt → aluSlt a b = 0#32) ∧
    (a.toNat < b.toNat → aluSltu a b = 1#32) ∧ (b.toNat ≤ a.toNat → aluSltu a b = 0#32) ∧
    (condEq a b = true ↔ a = b) ∧ (condNe a b = true ↔ a ≠ b) ∧
    (condLt a b = true ↔ a.toInt < b.toInt) ∧ (condGe a b = true ↔ b.toInt ≤ a.toInt) ∧
    (condLtu a b = true ↔ a.toNat < b.toNat) ∧ (condGeu a b = true ↔ b.toNat ≤ a.toNat)

/-! ## Registers and memory -/

/-- The register ports (`10_state.md` section 2): register 0 reads 0 and a write to it changes nothing; a write to
another register is read back exactly and changes no other register. -/
def Obligations.RegisterPortsHardwireZero : Prop :=
  ∀ (s : State) (r : RegIdx) (v : Word),
    s.readReg 0#5 = 0#32 ∧ s.writeReg 0#5 v = s ∧
    (r ≠ 0#5 → (s.writeReg r v).readReg r = v) ∧ ∀ q, q ≠ r → (s.writeReg r v).readReg q = s.readReg q

/-- Mixed widths see one array of bytes (`20_memory.md` section 1, which derives it from the read and write
operations): after a word is written, each byte, each halfword and the word read little-endian. -/
def Obligations.MixedWidthsSeeOneArray : Prop :=
  ∀ (s t : State) (a v : Word), s.mem.wf = true → s.params.memSize ≤ 2 ^ 32 → s.memWrite a 4 v = some t →
    (∀ k < 4, t.memRead8 (a + BitVec.ofNat 32 k) = some (v.extractLsb' (8 * k) 8)) ∧
    (∀ k < 3, t.memRead16 (a + BitVec.ofNat 32 k) = some (v.extractLsb' (8 * k) 16)) ∧
    t.memRead32 a = some v

/-- The three reads (`20_memory.md` sections 1 and 2): the bytes little-endian when the whole access is inside
memory, the sum taken in unbounded integers, and nothing otherwise. -/
def Obligations.ReadsAreBoundedLittleEndian : Prop :=
  ∀ (s : State) (a : Word),
    s.memRead8 a = (if a.toNat + 1 ≤ s.params.memSize then some (s.mem.read a.toNat) else none) ∧
    s.memRead16 a = (if a.toNat + 2 ≤ s.params.memSize then some (s.mem.read (a.toNat + 1) ++ s.mem.read a.toNat)
      else none) ∧
    s.memRead32 a = (if a.toNat + 4 ≤ s.params.memSize then
      some (s.mem.read (a.toNat + 3) ++ s.mem.read (a.toNat + 2) ++ s.mem.read (a.toNat + 1) ++ s.mem.read a.toNat)
      else none)

/-- The effective address (`20_memory.md` section 8): base plus signed displacement, modulo `2^32`. -/
def Obligations.EffectiveAddressWraps : Prop :=
  ∀ (s : State) (rs1 : RegIdx) (imm : BitVec 12),
    ((s.effAddr rs1 imm).toNat : Int) = (((s.readReg rs1).toNat : Int) + imm.toInt) % 2 ^ 32

/-! ## The families: word, result, completion and frame -/

/-- R100, R101. -/
def Obligations.UpperImmediateResults : Prop :=
  ∀ (rd : RegIdx) (imm : BitVec 20) (s : State),
    (decode (imm ++ rd ++ 0b0110111#7) = .ok (.lui rd imm) ∧
      Completes (exec (.lui rd imm) s) (fun t => WroteReg s t rd (imm ++ 0x000#12) (s.pc + 4#32))) ∧
    (decode (imm ++ rd ++ 0b0010111#7) = .ok (.auipc rd imm) ∧
      Completes (exec (.auipc rd imm) s) (fun t => WroteReg s t rd (s.pc + (imm ++ 0x000#12)) (s.pc + 4#32)))

/-- JAL (`42_jumps.md`): the link value and the target, both relative to the address of this JAL, or the error with
nothing written (decisions D6 and D7, log 5). -/
def Obligations.JalResult : Prop :=
  (∀ (b20 : BitVec 1) (b10_1 : BitVec 10) (b11 : BitVec 1) (b19_12 : BitVec 8) (rd : RegIdx),
    decode (b20 ++ b10_1 ++ b11 ++ b19_12 ++ rd ++ 0b1101111#7) =
      .ok (.jal rd (b20 ++ b19_12 ++ b11 ++ b10_1 ++ 0#1))) ∧
  ∀ (rd : RegIdx) (imm : BitVec 21) (s : State),
    ((s.pc + imm.signExtend 32).toNat % 4 = 0 →
      Completes (exec (.jal rd imm) s) (fun t => WroteReg s t rd (s.pc + 4#32) (s.pc + imm.signExtend 32))) ∧
    ((s.pc + imm.signExtend 32).toNat % 4 ≠ 0 →
      Raises (exec (.jal rd imm) s) s .misalignedTarget (s.pc + imm.signExtend 32))

/-- JALR (`42_jumps.md`): the target uses the old `x[rs1]` even when `rd = rs1` (decision D10), bit 0 is dropped,
and a target with bit 1 set is the error with nothing written (decision D7). -/
def Obligations.JalrResult : Prop :=
  ∀ (rd rs1 : RegIdx) (imm : BitVec 12) (s : State),
    decode (imm ++ rs1 ++ 0b000#3 ++ rd ++ 0b1100111#7) = .ok (.jalr rd rs1 imm) ∧
    ((s.readReg rs1 + imm.signExtend 32).getLsbD 1 = false →
      Completes (exec (.jalr rd rs1 imm) s)
        (fun t => WroteReg s t rd (s.pc + 4#32) ((s.readReg rs1 + imm.signExtend 32) &&& 0xFFFFFFFE#32))) ∧
    ((s.readReg rs1 + imm.signExtend 32).getLsbD 1 = true →
      Raises (exec (.jalr rd rs1 imm) s) s .misalignedTarget
        ((s.readReg rs1 + imm.signExtend 32) &&& 0xFFFFFFFE#32))

/-- The six branches (`43_branches.md`): a branch not taken is never checked and a taken one to a misaligned target
is the error (decision D7). -/
def Obligations.BranchOutcomes : Prop :=
  BranchRule 0b000#3 .beq (fun a b => a = b) ∧ BranchRule 0b001#3 .bne (fun a b => a ≠ b) ∧
  BranchRule 0b100#3 .blt (fun a b => a.toInt < b.toInt) ∧ BranchRule 0b101#3 .bge (fun a b => b.toInt ≤ a.toInt) ∧
  BranchRule 0b110#3 .bltu (fun a b => a.toNat < b.toNat) ∧ BranchRule 0b111#3 .bgeu (fun a b => b.toNat ≤ a.toNat)

/-- The five loads (`44_loads.md`): sign or zero extension of little-endian bytes at any alignment, `rd = 0` with
its bounds check (decision D31), and the bounds error with nothing written (decisions D6, D9). -/
def Obligations.LoadResults : Prop :=
  LoadRule 0b000#3 1 .lb (fun m a => (m.read a).signExtend 32) ∧
  LoadRule 0b001#3 2 .lh (fun m a => (m.read (a + 1) ++ m.read a).signExtend 32) ∧
  LoadRule 0b010#3 4 .lw (fun m a => m.read (a + 3) ++ m.read (a + 2) ++ m.read (a + 1) ++ m.read a) ∧
  LoadRule 0b100#3 1 .lbu (fun m a => (m.read a).setWidth 32) ∧
  LoadRule 0b101#3 2 .lhu (fun m a => (m.read (a + 1) ++ m.read a).setWidth 32)

/-- The three stores (`45_stores.md`): the low bytes of `x[rs2]` little-endian at the effective address at any
alignment, or the bounds error with no byte written, not even one in range (decisions D6 and D9, log 5). -/
def Obligations.StoreResults : Prop :=
  StoreRule 0b000#3 1 .sb ∧ StoreRule 0b001#3 2 .sh ∧ StoreRule 0b010#3 4 .sw

/-- R135 to R141. -/
def Obligations.ArithImmediateResults : Prop :=
  ImmRule 0b000#3 .addi (fun a b => BitVec.ofNat 32 (a.toNat + b.toNat)) ∧
  ImmRule 0b010#3 .slti (fun a b => if a.toInt < b.toInt then 1#32 else 0#32) ∧
  ImmRule 0b011#3 .sltiu (fun a b => if a.toNat < b.toNat then 1#32 else 0#32) ∧
  ImmRule 0b100#3 .xori (fun a b => a ^^^ b) ∧ ImmRule 0b110#3 .ori (fun a b => a ||| b) ∧
  ImmRule 0b111#3 .andi (fun a b => a &&& b)

/-- The three shifts by an immediate (`46_arith_immediate.md`), and the words with another selector in bits 31 to 25,
which are decode errors (`30_encoding.md` sections 6 and 7; for `funct3 = 101` decision D13, log 5). -/
def Obligations.ShiftImmediateResults : Prop :=
  ShiftRule 0b0000000#7 0b001#3 .slli (fun a n => BitVec.ofNat 32 (a.toNat * 2 ^ n)) ∧
  ShiftRule 0b0000000#7 0b101#3 .srli (fun a n => BitVec.ofNat 32 (a.toNat / 2 ^ n)) ∧
  ShiftRule 0b0100000#7 0b101#3 .srai (fun a n => BitVec.ofInt 32 (a.toInt / 2 ^ n)) ∧
  (∀ (sel : BitVec 7) (shamt rs1 rd : BitVec 5), sel ≠ 0b0000000#7 →
    decode (sel ++ shamt ++ rs1 ++ 0b001#3 ++ rd ++ 0b0010011#7) = .error .subselect) ∧
  ∀ (sel : BitVec 7) (shamt rs1 rd : BitVec 5), sel ≠ 0b0000000#7 → sel ≠ 0b0100000#7 →
    decode (sel ++ shamt ++ rs1 ++ 0b101#3 ++ rd ++ 0b0010011#7) = .error .subselect

/-- R150 to R160. -/
def Obligations.ArithRegisterResults : Prop :=
  RegRule 0b0000000#7 0b000#3 .add (fun a b => BitVec.ofNat 32 (a.toNat + b.toNat)) ∧
  RegRule 0b0100000#7 0b000#3 .sub (fun a b => BitVec.ofInt 32 ((a.toNat : Int) - b.toNat)) ∧
  RegRule 0b0000000#7 0b001#3 .sll (fun a b => BitVec.ofNat 32 (a.toNat * 2 ^ (b.toNat % 32))) ∧
  RegRule 0b0000000#7 0b010#3 .slt (fun a b => if a.toInt < b.toInt then 1#32 else 0#32) ∧
  RegRule 0b0000000#7 0b011#3 .sltu (fun a b => if a.toNat < b.toNat then 1#32 else 0#32) ∧
  RegRule 0b0000000#7 0b100#3 .xor (fun a b => a ^^^ b) ∧
  RegRule 0b0000000#7 0b101#3 .srl (fun a b => BitVec.ofNat 32 (a.toNat / 2 ^ (b.toNat % 32))) ∧
  RegRule 0b0100000#7 0b101#3 .sra (fun a b => BitVec.ofInt 32 (a.toInt / 2 ^ (b.toNat % 32))) ∧
  RegRule 0b0000000#7 0b110#3 .or (fun a b => a ||| b) ∧ RegRule 0b0000000#7 0b111#3 .and (fun a b => a &&& b)

/-- R165, R166: only `pc` changes, whatever the fields `rd`, `rs1` and `imm` hold. -/
def Obligations.FenceResults : Prop :=
  ∀ (rd rs1 : RegIdx) (imm : BitVec 12) (s : State),
    (decode (imm ++ rs1 ++ 0b000#3 ++ rd ++ 0b0001111#7) = .ok (.fence rd rs1 imm) ∧
      Completes (exec (.fence rd rs1 imm) s) (fun t => MovedPc s t (s.pc + 4#32))) ∧
    (decode (imm ++ rs1 ++ 0b001#3 ++ rd ++ 0b0001111#7) = .ok (.fenceI rd rs1 imm) ∧
      Completes (exec (.fenceI rd rs1 imm) s) (fun t => MovedPc s t (s.pc + 4#32)))

/-- EBREAK (`49_system.md` section 1; that `pc` advances is decision D17): the run ends, nothing else changes. -/
def Obligations.EbreakEndsTheRun : Prop :=
  decode 0x00100073#32 = .ok .ebreak ∧
  ∀ s : State, exec .ebreak s = .next { s with terminated := true, termCause := .ebreak, pc := s.pc + 4#32 }

/-- The system call `write` (`49_system.md` section 2, decision D22): the host gets the descriptor and the `count`
bytes, its answer goes to `x[10]`, and memory is not changed. The answer is the next of `hostReplies`, and a free
value where that list is empty (log 2). -/
def Obligations.EcallWriteResult : Prop :=
  decode 0x00000073#32 = .ok .ecall ∧
  ∀ s : State, s.readReg s.params.syscallIdReg = s.params.sysWrite →
    (s.readReg 11#5).toNat + (s.readReg 12#5).toNat ≤ s.params.memSize →
    Completes (exec .ecall s) (fun t =>
      (∀ reply rest, s.hostReplies = reply :: rest → t.readReg 10#5 = reply.result ∧ t.hostReplies = rest) ∧
      (s.hostReplies = [] → t.readReg 10#5 = Config.hostResult s.hostCalls.length ∧ t.hostReplies = []) ∧
      t.hostCalls = s.hostCalls ++ [.write (s.readReg 10#5)
        ((List.range (s.readReg 12#5).toNat).map (fun k => s.mem.read ((s.readReg 11#5).toNat + k)))] ∧
      (∀ r, r ≠ 10#5 → t.readReg r = s.readReg r) ∧ t.pc = s.pc + 4#32 ∧ SameBytes s t ∧
      t.terminated = s.terminated ∧ t.termCause = s.termCause ∧ t.exitCode = s.exitCode ∧ t.fault = s.fault ∧
      t.execRanges = s.execRanges ∧ t.params = s.params)

/-- The system call `read` (`49_system.md` section 2, decision D22). `x[10]` takes the host's answer `r`, the next of
`hostReplies` or a free value where that list is empty. In both cases, when `r` is at most `count` the first `r`
bytes of the buffer are those the host delivers and no other byte changes, and when it is above `count` no byte
changes. Bytes the list of answers does not hold are free values (log 2, log 11). That `r` is compared with `count`
unsigned is the model's choice (log 17). -/
def Obligations.EcallReadResult : Prop :=
  ∀ s : State, s.params.wf → s.mem.wf = true → s.readReg s.params.syscallIdReg = s.params.sysRead →
    (s.readReg 11#5).toNat + (s.readReg 12#5).toNat ≤ s.params.memSize →
    Completes (exec .ecall s) (fun t =>
      (∀ reply rest, s.hostReplies = reply :: rest →
        t.readReg 10#5 = reply.result ∧ t.hostReplies = rest ∧
        ((t.readReg 10#5).toNat ≤ (s.readReg 12#5).toNat → ∀ k < (t.readReg 10#5).toNat,
          t.mem.read ((s.readReg 11#5).toNat + k) = reply.data.getD k (Config.hostByte s.hostCalls.length k))) ∧
      (s.hostReplies = [] →
        t.readReg 10#5 = Config.hostResult s.hostCalls.length ∧ t.hostReplies = [] ∧
        ((t.readReg 10#5).toNat ≤ (s.readReg 12#5).toNat → ∀ k < (t.readReg 10#5).toNat,
          t.mem.read ((s.readReg 11#5).toNat + k) = Config.hostByte s.hostCalls.length k)) ∧
      ((t.readReg 10#5).toNat ≤ (s.readReg 12#5).toNat →
        SameBytesOutside s t (s.readReg 11#5).toNat (t.readReg 10#5).toNat) ∧
      ((s.readReg 12#5).toNat < (t.readReg 10#5).toNat → SameBytes s t) ∧
      SameBytesOutside s t (s.readReg 11#5).toNat (s.readReg 12#5).toNat ∧
      t.hostCalls = s.hostCalls ++ [.read (s.readReg 10#5) (s.readReg 12#5)] ∧
      (∀ r, r ≠ 10#5 → t.readReg r = s.readReg r) ∧ t.pc = s.pc + 4#32 ∧
      t.terminated = s.terminated ∧ t.termCause = s.termCause ∧ t.exitCode = s.exitCode ∧ t.fault = s.fault ∧
      t.execRanges = s.execRanges ∧ t.params = s.params)

/-- The system call `exit` (`49_system.md` section 2, decisions D17 and D30): the run ends with the code `x[10]`,
`pc` advances, no register and no byte changes. -/
def Obligations.EcallExitResult : Prop :=
  ∀ s : State, s.params.wf → s.readReg s.params.syscallIdReg = s.params.sysExit →
    exec .ecall s = .next { s with
      terminated := true, termCause := .exit, exitCode := s.readReg 10#5, pc := s.pc + 4#32,
      hostCalls := s.hostCalls ++ [.exit (s.readReg 10#5)] }

/-- Where ECALL is an error (`49_system.md` section 2, decisions D6 and D9): an unknown id, and a buffer of `read`
or `write` that is not wholly in memory. Nothing else changes; the host is not called. -/
def Obligations.EcallErrors : Prop :=
  ∀ s : State,
    (s.readReg s.params.syscallIdReg ∉ [s.params.sysRead, s.params.sysWrite, s.params.sysExit] →
      Raises (exec .ecall s) s .syscallUnknown (s.readReg s.params.syscallIdReg)) ∧
    (s.readReg s.params.syscallIdReg ∈ [s.params.sysRead, s.params.sysWrite] →
      s.params.memSize < (s.readReg 11#5).toNat + (s.readReg 12#5).toNat →
      Raises (exec .ecall s) s .memOob (s.readReg 11#5))

/-! ## Whole-machine rules -/

/-- R95: the next `pc` of every instruction that completes. -/
def Obligations.NextPcSelect : Prop :=
  ∀ (i : Instr) (s t : State), exec i s = .next t → t.fault.code = .ok → t.pc = nextPc s i

/-- One instruction writes at most one register (`10_state.md` section 2, which derives its table from the
instructions' rules), and register 0 reads 0 after it. -/
def Obligations.AtMostOneRegisterWritten : Prop :=
  ∀ (i : Instr) (s t : State), exec i s = .next t →
    (∀ r, destination i ≠ some r → t.readReg r = s.readReg r) ∧ t.readReg 0#5 = 0#32

/-- Memory changes only where a store stores and in the buffer of the system call `read` (`20_memory.md` sections 4
and 6): the frame of every instruction over all of memory. -/
def Obligations.MemoryFrame : Prop :=
  ∀ (i : Instr) (s t : State), exec i s = .next t →
    SameBytesOutside s t (writeSpan s i).1 (writeSpan s i).2

/-- What changes the control state (`10_state.md` section 4, `70_reset_and_hazards.md` section 4): only EBREAK and
ECALL end a run from inside an instruction; no instruction changes the parameters or `exec_ranges`; only ECALL
meets the host. -/
def Obligations.ControlStateFrame : Prop :=
  ∀ (i : Instr) (s t : State), exec i s = .next t →
    t.params = s.params ∧ t.execRanges = s.execRanges ∧
    (i ≠ .ebreak → i ≠ .ecall →
      t.terminated = s.terminated ∧ t.termCause = s.termCause ∧ t.exitCode = s.exitCode) ∧
    (i ≠ .ecall → t.hostReplies = s.hostReplies ∧ t.hostCalls = s.hostCalls)

/-- No instruction reads the control state (`10_state.md` section 4): from two states that agree on registers, `pc`,
memory, parameters and the host, every instruction gives the same registers, `pc` and memory. -/
def Obligations.ControlStateIsUnreadable : Prop :=
  ∀ (i : Instr) (s s' t t' : State),
    s'.regs = s.regs → s'.pc = s.pc → s'.mem = s.mem → s'.params = s.params → s'.hostReplies = s.hostReplies →
    s'.hostCalls = s.hostCalls → exec i s = .next t → exec i s' = .next t' →
    t'.regs = t.regs ∧ t'.pc = t.pc ∧ t'.mem = t.mem ∧ t'.hostCalls = t.hostCalls

/-- An error is precise (`60_exceptions.md` sections 3 and 4, decision D6): an instruction that raises one changes
the latch and nothing else, and raises only what its mnemonic can raise. -/
def Obligations.ErrorsArePrecise : Prop :=
  ∀ (i : Instr) (s t : State), exec i s = .next t → s.fault.code = .ok → t.fault.code ≠ .ok →
    t = { s with fault := t.fault } ∧ mayRaise i t.fault.code

/-- A step runs the decoded instruction (`40_datapath.md` section 1): when the step fetches and the word at `pc`
decodes to `i`, the step is `exec` of `i` in that state; nothing is done around it. -/
def Obligations.StepRunsDecodedInstruction : Prop :=
  ∀ (s : State) (i : Instr), s.Fetches → decode s.wordAtPc = .ok i → step s = exec i s

/-- A latched error or a finished run stops the machine (`10_state.md` section 4, decisions D6 and D27). -/
def Obligations.StoppedStepChangesNothing : Prop :=
  ∀ s : State, s.fault.code ≠ .ok ∨ s.terminated = true → step s = .next s

/-- The two ends of a run found before a fetch (`70_reset_and_hazards.md` section 4, decisions D3 and D20): only the
flag and its cause change, and the sentinel comes first. -/
def Obligations.RunEndsBeforeFetch : Prop :=
  ∀ s : State, s.fault.code = .ok → s.terminated = false →
    (s.pc = s.params.haltSentinel → step s = .next { s with terminated := true, termCause := .sentinel }) ∧
    (s.pc ≠ s.params.haltSentinel → (∀ r ∈ s.execRanges, s.pc.toNat < r.start ∨ r.stop < s.pc.toNat + 4) →
      step s = .next { s with terminated := true, termCause := .hostAbort })

/-- The errors of fetch and decode in a step (`40_datapath.md` section 1, `60_exceptions.md` section 1, decisions D6
and D25): the word or the address is recorded and nothing else changes. -/
def Obligations.FetchAndDecodeErrors : Prop :=
  (∀ s : State, s.Fetches → decode s.wordAtPc = .error .opcode → Raises (step s) s .decodeOpcode s.wordAtPc) ∧
  (∀ s : State, s.Fetches → decode s.wordAtPc = .error .subselect →
    Raises (step s) s .decodeSubselect s.wordAtPc) ∧
  ∀ s : State, s.fault.code = .ok → s.terminated = false → s.pc ≠ s.params.haltSentinel →
    (∃ r ∈ s.execRanges, r.start ≤ s.pc.toNat ∧ s.pc.toNat + 4 ≤ r.stop) →
    s.params.memSize < s.pc.toNat + 4 → Raises (step s) s .memOob s.pc

/-- Every step answers a next state: an error is a value in the state (`60_exceptions.md` section 1), never a stop of
the model (log 4). -/
def Obligations.EveryStepAnswersNext : Prop :=
  (∀ s : State, ∃ t, step s = .next t) ∧ ∀ (i : Instr) (s : State), ∃ t, exec i s = .next t

/-- R189: no sequence of steps raises `ERR_UNKNOWN_INSTR`. -/
def Obligations.UnknownInstructionIsUnreachable : Prop :=
  ∀ (n : Nat) (s t : State), s.fault.code ≠ .unknownInstr → Sys2Proof.core.run n s = .next t →
    t.fault.code ≠ .unknownInstr

/-- The four ways a run is terminated (`10_state.md` section 4, `70_reset_and_hazards.md` section 4, decision D30), each
with its cause. -/
def Obligations.OnlyFourCausesTerminate : Prop :=
  ∀ s t : State, step s = .next t → s.terminated = false → t.terminated = true →
    (t.termCause = .sentinel ∧ s.pc = s.params.haltSentinel) ∨
    (t.termCause = .hostAbort ∧ ∀ r ∈ s.execRanges, s.pc.toNat < r.start ∨ r.stop < s.pc.toNat + 4) ∨
    (t.termCause = .ebreak ∧ decode s.wordAtPc = .ok .ebreak) ∨
    (t.termCause = .exit ∧ decode s.wordAtPc = .ok .ecall ∧
      s.readReg s.params.syscallIdReg = s.params.sysExit ∧ t.exitCode = s.readReg 10#5)

/-- A word stored over an instruction is what the next fetch from there reads (`20_memory.md` section 6, which derives
it): no fence is needed. -/
def Obligations.FetchSeesTheStore : Prop :=
  ∀ (s t : State) (rs1 rs2 : RegIdx) (imm : BitVec 12), s.mem.wf = true → s.fault.code = .ok →
    exec (.sw rs1 rs2 imm) s = .next t → t.fault.code = .ok →
    ({ t with pc := s.effAddr rs1 imm } : State).fetch = some (s.readReg rs2)

/-- The source's round-trip property (`45_stores.md`): "store word then load word at the same address
returns the exact stored 32-bit pattern". -/
def Obligations.StoreThenLoadWord : Prop :=
  ∀ (s : State) (rs1 rs2 rd : RegIdx) (imm : BitVec 12), s.mem.wf = true →
    (s.effAddr rs1 imm).toNat + 4 ≤ s.params.memSize →
    Completes (exec (.sw rs1 rs2 imm) s) (fun t =>
      Completes (exec (.lw rd rs1 imm) t) (fun u => u.readReg rd = if rd = 0#5 then 0#32 else s.readReg rs2))

/-- When the diagnostic `warn_misaligned(addr, n)` is raised (`20_memory.md` section 3, `60_exceptions.md` section 5,
decision D8): for the word, halfword and byte accesses, exactly when the access is made at an address that is no
multiple of its size. That an access out of bounds raises no warning is read from the vectors (log 12). What the
access itself does at any alignment is stated in `LoadResults` and `StoreResults`. -/
def Obligations.MisalignmentDiagnosticRaised : Prop :=
  ∀ (s : State) (rd rs1 rs2 : RegIdx) (imm : BitVec 12) (a : Access),
    (warnMisaligned (.lw rd rs1 imm) s = some a ↔ a = ⟨s.effAddr rs1 imm, 4⟩ ∧
      (s.effAddr rs1 imm).toNat + 4 ≤ s.params.memSize ∧ (s.effAddr rs1 imm).toNat % 4 ≠ 0) ∧
    warnMisaligned (.sw rs1 rs2 imm) s = warnMisaligned (.lw rd rs1 imm) s ∧
    (warnMisaligned (.lh rd rs1 imm) s = some a ↔ a = ⟨s.effAddr rs1 imm, 2⟩ ∧
      (s.effAddr rs1 imm).toNat + 2 ≤ s.params.memSize ∧ (s.effAddr rs1 imm).toNat % 2 ≠ 0) ∧
    warnMisaligned (.lhu rd rs1 imm) s = warnMisaligned (.lh rd rs1 imm) s ∧
    warnMisaligned (.sh rs1 rs2 imm) s = warnMisaligned (.lh rd rs1 imm) s ∧
    warnMisaligned (.lb rd rs1 imm) s = none ∧ warnMisaligned (.lbu rd rs1 imm) s = none ∧
    warnMisaligned (.sb rs1 rs2 imm) s = none

/-! ## Reset, launch and runs -/

/-- Reset is total (`70_reset_and_hazards.md` section 1; the values but for memory are decision D21), for every choice
of the parameters: registers, `pc`, memory and control state 0, no executable range. `State.reset` is reset with
the spec's scratch parameters (log 1). -/
def Obligations.ResetValues : Prop :=
  (∀ p : Params,
    (∀ r, (State.resetWith p).readReg r = 0#32) ∧ (State.resetWith p).pc = 0#32 ∧
    (∀ a, (State.resetWith p).mem.read a = 0#8) ∧ (State.resetWith p).terminated = false ∧
    (State.resetWith p).termCause = .none ∧ (State.resetWith p).exitCode = 0#32 ∧
    (State.resetWith p).fault = ⟨.ok, 0#32⟩ ∧ (State.resetWith p).execRanges = [] ∧
    (State.resetWith p).params = p) ∧
  State.reset = State.resetWith ⟨0x10000, 0xFFFFFFF0#32, 17#5, 63#32, 64#32, 93#32⟩

/-- `map` (`20_memory.md` section 7, decision D19): the bytes go to their place and the range becomes executable, or
nothing happens and the error is returned. -/
def Obligations.MapCopiesASegment : Prop :=
  ∀ (s : State) (g : Segment), s.mem.wf = true →
    (g.stop ≤ s.params.memSize → g.start ≤ g.stop → g.bytes.length = g.stop - g.start →
      Completes (mapSegment g s) (fun t =>
        (∀ k (h : k < g.bytes.length), t.mem.read (g.start + k) = g.bytes[k]) ∧
        SameBytesOutside s t g.start (g.stop - g.start) ∧
        (∀ r, r ∈ t.execRanges ↔ r ∈ s.execRanges ∨ (g.start < g.stop ∧ r = ⟨g.start, g.stop⟩)) ∧
        t = { s with mem := t.mem, execRanges := t.execRanges })) ∧
    (s.params.memSize < g.stop ∨ g.stop < g.start ∨ g.bytes.length ≠ g.stop - g.start →
      mapSegment g s = .fault (.mapOutOfBounds g.start g.stop))

/-- A launch (`70_reset_and_hazards.md` sections 2 and 3, decisions D2, D3, D4, D18, D19) of segments that meet their
conditions starts: `ra` holds the sentinel, `sp` the address of the last word, every other register 0, `pc` the entry
point, every byte of every segment is in its place and every other byte is 0, and exactly the non-empty segments
are executable. -/
def Obligations.LaunchInitialises : Prop :=
  ∀ (p : Params) (gs : List Segment) (entryPoint : Word), p.wf → entryPoint.toNat % 4 = 0 →
    (∀ g ∈ gs, g.start ≤ g.stop ∧ g.stop ≤ p.memSize ∧ g.bytes.length = g.stop - g.start) →
    gs.Pairwise (fun g h => g.stop ≤ h.start ∨ h.stop ≤ g.start) →
    (∀ g ∈ gs, p.haltSentinel.toNat < g.start ∨ g.stop ≤ p.haltSentinel.toNat) →
    Completes (launch p gs entryPoint) (fun s =>
      s.readReg 1#5 = p.haltSentinel ∧ (s.readReg 2#5).toNat = p.memSize - 4 ∧
      (∀ r, r ≠ 1#5 → r ≠ 2#5 → s.readReg r = 0#32) ∧ s.pc = entryPoint ∧ s.params = p ∧
      s.terminated = false ∧ s.termCause = .none ∧ s.exitCode = 0#32 ∧ s.fault = ⟨.ok, 0#32⟩ ∧
      (∀ g ∈ gs, ∀ k (h : k < g.bytes.length), s.mem.read (g.start + k) = g.bytes[k]) ∧
      (∀ a, (∀ g ∈ gs, a < g.start ∨ g.stop ≤ a) → s.mem.read a = 0#8) ∧
      (∀ r, r ∈ s.execRanges ↔ ∃ g ∈ gs, g.start < g.stop ∧ r = ⟨g.start, g.stop⟩))

/-- What a launch must satisfy (`20_memory.md` section 7, `60_exceptions.md` section 1, `70_reset_and_hazards.md` section
3, decisions D3, D18, D19): otherwise it does not start. The order of the checks is the model's (log 10). -/
def Obligations.BadLaunchNeverStarts : Prop :=
  ∀ (p : Params) (gs : List Segment) (entryPoint : Word) (s : State), launch p gs entryPoint = .next s →
    entryPoint.toNat % 4 = 0 ∧
    (∀ g ∈ gs, g.start ≤ g.stop ∧ g.stop ≤ p.memSize ∧ g.bytes.length = g.stop - g.start) ∧
    gs.Pairwise (fun g h => g.stop ≤ h.start ∨ h.stop ≤ g.start) ∧
    p.haltSentinel.toNat % 4 = 0 ∧
    ∀ g ∈ gs, p.haltSentinel.toNat < g.start ∨ g.stop ≤ p.haltSentinel.toNat

/-- The state right after reset meets the invariant, for every choice of the parameters within their constraints. -/
def Obligations.ResetMeetsInvariant : Prop := State.reset.Inv ∧ ∀ p : Params, p.wf → (State.resetWith p).Inv

/-- Every step keeps the invariant: memory in canonical form and inside its size, `pc` a multiple of 4, the cause
recorded exactly when the flag is set, a faulted state not a finished one, the ranges parts of memory. -/
def Obligations.StepKeepsInvariant : Prop := ∀ s t : State, s.Inv → step s = .next t → t.Inv

/-- Every state of every run of every launch meets the invariant, and a fetch there is never out of bounds
(`10_state.md` section 3, `40_datapath.md` section 1, decision D25, both derived by the spec). -/
def Obligations.RunsMeetInvariantAndFetch : Prop :=
  ∀ s : State, Reachable s → s.Inv ∧ s.front ≠ .fails .memOob s.pc

/-- A run that has ended stays as it is for any number of steps (`70_reset_and_hazards.md` section 4, decision D30), and
every ended state of a run of a launch ended in exactly one of the two ways. -/
def Obligations.EndedRunIsFinal : Prop :=
  (∀ (n : Nat) (s : State), s.ended = true → Sys2Proof.core.run n s = .next s) ∧
  ∀ s : State, Reachable s → s.ended = true → s.endedNormally = !s.endedAbnormally
end

