-- ==== Sys2Proof/Laws/Encoding.lean ====
section
/-! SUPPORT. The fields of an encoded word (`spec/30_encoding.md` rules R51 to R57): what the decoder's field
readers give on each of the six layouts, and a word put together again from its fields. -/

namespace Sys2Proof

/-! ## Slices of a concatenation -/

theorem toNat_app {a b : Nat} (x : BitVec a) (y : BitVec b) : (x ++ y).toNat = x.toNat * 2 ^ b + y.toNat := by
  rw [BitVec.toNat_append, ← Nat.shiftLeft_add_eq_or_of_lt y.isLt, Nat.shiftLeft_eq]

theorem slice_toNat {m : Nat} (x : BitVec m) (k n : Nat) : (x.extractLsb' k n).toNat = x.toNat / 2 ^ k % 2 ^ n := by
  rw [BitVec.extractLsb'_toNat, Nat.shiftRight_eq_div_pow]

/-- A slice above the low part is a slice of the high part. -/
theorem slice_hi {a b : Nat} (x : BitVec a) (y : BitVec b) (k n : Nat) :
    (x ++ y).extractLsb' (b + k) n = x.extractLsb' k n := by
  apply BitVec.eq_of_toNat_eq
  rw [slice_toNat, slice_toNat, toNat_app, Nat.pow_add, ← Nat.div_div_eq_div_mul,
    Nat.add_comm, Nat.add_mul_div_right _ _ (Nat.two_pow_pos b), Nat.div_eq_of_lt y.isLt, Nat.zero_add]

/-- The low part. -/
theorem slice_lo {a b : Nat} (x : BitVec a) (y : BitVec b) : (x ++ y).extractLsb' 0 b = y := by
  apply BitVec.eq_of_toNat_eq
  rw [slice_toNat, toNat_app, Nat.pow_zero, Nat.div_one, Nat.mul_comm, Nat.mul_add_mod, Nat.mod_eq_of_lt y.isLt]

/-- The whole. -/
theorem slice_all {n : Nat} (x : BitVec n) : x.extractLsb' 0 n = x := by
  apply BitVec.eq_of_toNat_eq
  rw [slice_toNat, Nat.pow_zero, Nat.div_one, Nat.mod_eq_of_lt x.isLt]

/-- Two adjacent slices are one slice. -/
theorem slice_join {m : Nat} {w : BitVec m} (k a : Nat) {b : Nat} {x : BitVec b} {y : BitVec a}
    (hx : x = w.extractLsb' (k + a) b) (hy : y = w.extractLsb' k a) : x ++ y = w.extractLsb' k (b + a) := by
  subst hx hy
  apply BitVec.eq_of_toNat_eq
  rw [toNat_app, slice_toNat, slice_toNat, slice_toNat, Nat.pow_add 2 k a, ← Nat.div_div_eq_div_mul,
    Nat.add_comm b a, Nat.pow_add, Nat.mod_mul, Nat.add_comm, Nat.mul_comm]

/-! ## Immediates put together from their pieces -/

theorem even_of_evenOffset {n : Nat} {imm : BitVec n} (h : evenOffset imm = true) : imm.toNat % 2 = 0 := by
  have h0 := congrArg BitVec.toNat (beq_iff_eq.mp h)
  rw [slice_toNat] at h0
  simpa using h0

theorem join_immS (imm : BitVec 12) : imm.extractLsb' 5 7 ++ imm.extractLsb' 0 5 = imm :=
  (slice_join 0 5 rfl rfl).trans (slice_all imm)

theorem join_immB (imm : BitVec 13) (h : evenOffset imm = true) :
    imm.extractLsb' 12 1 ++ imm.extractLsb' 11 1 ++ imm.extractLsb' 5 6 ++ imm.extractLsb' 1 4 ++ 0#1 = imm :=
  (slice_join 0 1 (slice_join 1 4 (slice_join 5 6 (slice_join 11 1 rfl rfl) rfl) rfl) (beq_iff_eq.mp h).symm).trans
    (slice_all imm)

theorem join_immJ (imm : BitVec 21) (h : evenOffset imm = true) :
    imm.extractLsb' 20 1 ++ imm.extractLsb' 12 8 ++ imm.extractLsb' 11 1 ++ imm.extractLsb' 1 10 ++ 0#1 = imm :=
  (slice_join 0 1 (slice_join 1 10 (slice_join 11 1 (slice_join 12 8 rfl rfl) rfl) rfl) (beq_iff_eq.mp h).symm).trans
    (slice_all imm)

/-! ## The R layout -/

@[simp] theorem funct7Field_encodeR (funct7 : BitVec 7) (rs2 rs1 : RegIdx) (funct3 : BitVec 3) (rd : RegIdx) (c : OpClass) :
    funct7Field (encodeR funct7 rs2 rs1 funct3 rd c) = funct7 :=
  (slice_hi _ c.code 18 7).trans <| (slice_hi _ rd 13 7).trans <| (slice_hi _ funct3 10 7).trans <|
    (slice_hi _ rs1 5 7).trans <| (slice_hi _ rs2 0 7).trans <| slice_all funct7

@[simp] theorem rs2Field_encodeR (funct7 : BitVec 7) (rs2 rs1 : RegIdx) (funct3 : BitVec 3) (rd : RegIdx) (c : OpClass) :
    rs2Field (encodeR funct7 rs2 rs1 funct3 rd c) = rs2 :=
  (slice_hi _ c.code 13 5).trans <| (slice_hi _ rd 8 5).trans <| (slice_hi _ funct3 5 5).trans <|
    (slice_hi _ rs1 0 5).trans <| slice_lo _ rs2

@[simp] theorem rs1Field_encodeR (funct7 : BitVec 7) (rs2 rs1 : RegIdx) (funct3 : BitVec 3) (rd : RegIdx) (c : OpClass) :
    rs1Field (encodeR funct7 rs2 rs1 funct3 rd c) = rs1 :=
  (slice_hi _ c.code 8 5).trans <| (slice_hi _ rd 3 5).trans <| (slice_hi _ funct3 0 5).trans <| slice_lo _ rs1

@[simp] theorem funct3Field_encodeR (funct7 : BitVec 7) (rs2 rs1 : RegIdx) (funct3 : BitVec 3) (rd : RegIdx) (c : OpClass) :
    funct3Field (encodeR funct7 rs2 rs1 funct3 rd c) = funct3 :=
  (slice_hi _ c.code 5 3).trans <| (slice_hi _ rd 0 3).trans <| slice_lo _ funct3

@[simp] theorem rdField_encodeR (funct7 : BitVec 7) (rs2 rs1 : RegIdx) (funct3 : BitVec 3) (rd : RegIdx) (c : OpClass) :
    rdField (encodeR funct7 rs2 rs1 funct3 rd c) = rd :=
  (slice_hi _ c.code 0 5).trans <| slice_lo _ rd

@[simp] theorem opcodeField_encodeR (funct7 : BitVec 7) (rs2 rs1 : RegIdx) (funct3 : BitVec 3) (rd : RegIdx) (c : OpClass) :
    opcodeField (encodeR funct7 rs2 rs1 funct3 rd c) = c.code :=
  slice_lo _ c.code

/-! ## The I layout -/

@[simp] theorem immI_encodeI (imm : BitVec 12) (rs1 : RegIdx) (funct3 : BitVec 3) (rd : RegIdx) (c : OpClass) :
    immI (encodeI imm rs1 funct3 rd c) = imm :=
  (slice_hi _ c.code 13 12).trans <| (slice_hi _ rd 8 12).trans <| (slice_hi _ funct3 5 12).trans <|
    (slice_hi _ rs1 0 12).trans <| slice_all imm

@[simp] theorem rs1Field_encodeI (imm : BitVec 12) (rs1 : RegIdx) (funct3 : BitVec 3) (rd : RegIdx) (c : OpClass) :
    rs1Field (encodeI imm rs1 funct3 rd c) = rs1 :=
  (slice_hi _ c.code 8 5).trans <| (slice_hi _ rd 3 5).trans <| (slice_hi _ funct3 0 5).trans <| slice_lo _ rs1

@[simp] theorem funct3Field_encodeI (imm : BitVec 12) (rs1 : RegIdx) (funct3 : BitVec 3) (rd : RegIdx) (c : OpClass) :
    funct3Field (encodeI imm rs1 funct3 rd c) = funct3 :=
  (slice_hi _ c.code 5 3).trans <| (slice_hi _ rd 0 3).trans <| slice_lo _ funct3

@[simp] theorem rdField_encodeI (imm : BitVec 12) (rs1 : RegIdx) (funct3 : BitVec 3) (rd : RegIdx) (c : OpClass) :
    rdField (encodeI imm rs1 funct3 rd c) = rd :=
  (slice_hi _ c.code 0 5).trans <| slice_lo _ rd

@[simp] theorem opcodeField_encodeI (imm : BitVec 12) (rs1 : RegIdx) (funct3 : BitVec 3) (rd : RegIdx) (c : OpClass) :
    opcodeField (encodeI imm rs1 funct3 rd c) = c.code :=
  slice_lo _ c.code

/-- The shift selector of the I layout (R59). -/
@[simp] theorem funct7Field_encodeI (imm : BitVec 12) (rs1 : RegIdx) (funct3 : BitVec 3) (rd : RegIdx) (c : OpClass) :
    funct7Field (encodeI imm rs1 funct3 rd c) = imm.extractLsb' 5 7 :=
  (slice_hi _ c.code 18 7).trans <| (slice_hi _ rd 13 7).trans <| (slice_hi _ funct3 10 7).trans <| slice_hi imm rs1 5 7

/-! ## The S layout -/

theorem slice25_encodeS (imm : BitVec 12) (rs2 rs1 : RegIdx) (funct3 : BitVec 3) (c : OpClass) :
    (encodeS imm rs2 rs1 funct3 c).extractLsb' 25 7 = imm.extractLsb' 5 7 :=
  (slice_hi _ c.code 18 7).trans <| (slice_hi _ (imm.extractLsb' 0 5) 13 7).trans <|
    (slice_hi _ funct3 10 7).trans <| (slice_hi _ rs1 5 7).trans <| (slice_hi _ rs2 0 7).trans <|
    slice_all (imm.extractLsb' 5 7)

@[simp] theorem rs2Field_encodeS (imm : BitVec 12) (rs2 rs1 : RegIdx) (funct3 : BitVec 3) (c : OpClass) :
    rs2Field (encodeS imm rs2 rs1 funct3 c) = rs2 :=
  (slice_hi _ c.code 13 5).trans <| (slice_hi _ (imm.extractLsb' 0 5) 8 5).trans <|
    (slice_hi _ funct3 5 5).trans <| (slice_hi _ rs1 0 5).trans <| slice_lo _ rs2

@[simp] theorem rs1Field_encodeS (imm : BitVec 12) (rs2 rs1 : RegIdx) (funct3 : BitVec 3) (c : OpClass) :
    rs1Field (encodeS imm rs2 rs1 funct3 c) = rs1 :=
  (slice_hi _ c.code 8 5).trans <| (slice_hi _ (imm.extractLsb' 0 5) 3 5).trans <|
    (slice_hi _ funct3 0 5).trans <| slice_lo _ rs1

@[simp] theorem funct3Field_encodeS (imm : BitVec 12) (rs2 rs1 : RegIdx) (funct3 : BitVec 3) (c : OpClass) :
    funct3Field (encodeS imm rs2 rs1 funct3 c) = funct3 :=
  (slice_hi _ c.code 5 3).trans <| (slice_hi _ (imm.extractLsb' 0 5) 0 3).trans <| slice_lo _ funct3

theorem slice7_encodeS (imm : BitVec 12) (rs2 rs1 : RegIdx) (funct3 : BitVec 3) (c : OpClass) :
    (encodeS imm rs2 rs1 funct3 c).extractLsb' 7 5 = imm.extractLsb' 0 5 :=
  (slice_hi _ c.code 0 5).trans <| slice_lo _ (imm.extractLsb' 0 5)

@[simp] theorem opcodeField_encodeS (imm : BitVec 12) (rs2 rs1 : RegIdx) (funct3 : BitVec 3) (c : OpClass) :
    opcodeField (encodeS imm rs2 rs1 funct3 c) = c.code :=
  slice_lo _ c.code

@[simp] theorem immS_encodeS (imm : BitVec 12) (rs2 rs1 : RegIdx) (funct3 : BitVec 3) (c : OpClass) :
    immS (encodeS imm rs2 rs1 funct3 c) = imm := by
  rw [immS, slice25_encodeS, slice7_encodeS, join_immS]

/-! ## The B layout -/

theorem slice31_encodeB (imm : BitVec 13) (rs2 rs1 : RegIdx) (funct3 : BitVec 3) (c : OpClass) :
    (encodeB imm rs2 rs1 funct3 c).extractLsb' 31 1 = imm.extractLsb' 12 1 :=
  (slice_hi _ c.code 24 1).trans <| (slice_hi _ (imm.extractLsb' 11 1) 23 1).trans <|
    (slice_hi _ (imm.extractLsb' 1 4) 19 1).trans <| (slice_hi _ funct3 16 1).trans <|
    (slice_hi _ rs1 11 1).trans <| (slice_hi _ rs2 6 1).trans <|
    (slice_hi _ (imm.extractLsb' 5 6) 0 1).trans <| slice_all (imm.extractLsb' 12 1)

theorem slice25_encodeB (imm : BitVec 13) (rs2 rs1 : RegIdx) (funct3 : BitVec 3) (c : OpClass) :
    (encodeB imm rs2 rs1 funct3 c).extractLsb' 25 6 = imm.extractLsb' 5 6 :=
  (slice_hi _ c.code 18 6).trans <| (slice_hi _ (imm.extractLsb' 11 1) 17 6).trans <|
    (slice_hi _ (imm.extractLsb' 1 4) 13 6).trans <| (slice_hi _ funct3 10 6).trans <|
    (slice_hi _ rs1 5 6).trans <| (slice_hi _ rs2 0 6).trans <| slice_lo _ (imm.extractLsb' 5 6)

@[simp] theorem rs2Field_encodeB (imm : BitVec 13) (rs2 rs1 : RegIdx) (funct3 : BitVec 3) (c : OpClass) :
    rs2Field (encodeB imm rs2 rs1 funct3 c) = rs2 :=
  (slice_hi _ c.code 13 5).trans <| (slice_hi _ (imm.extractLsb' 11 1) 12 5).trans <|
    (slice_hi _ (imm.extractLsb' 1 4) 8 5).trans <| (slice_hi _ funct3 5 5).trans <|
    (slice_hi _ rs1 0 5).trans <| slice_lo _ rs2

@[simp] theorem rs1Field_encodeB (imm : BitVec 13) (rs2 rs1 : RegIdx) (funct3 : BitVec 3) (c : OpClass) :
    rs1Field (encodeB imm rs2 rs1 funct3 c) = rs1 :=
  (slice_hi _ c.code 8 5).trans <| (slice_hi _ (imm.extractLsb' 11 1) 7 5).trans <|
    (slice_hi _ (imm.extractLsb' 1 4) 3 5).trans <| (slice_hi _ funct3 0 5).trans <| slice_lo _ rs1

@[simp] theorem funct3Field_encodeB (imm : BitVec 13) (rs2 rs1 : RegIdx) (funct3 : BitVec 3) (c : OpClass) :
    funct3Field (encodeB imm rs2 rs1 funct3 c) = funct3 :=
  (slice_hi _ c.code 5 3).trans <| (slice_hi _ (imm.extractLsb' 11 1) 4 3).trans <|
    (slice_hi _ (imm.extractLsb' 1 4) 0 3).trans <| slice_lo _ funct3

theorem slice8_encodeB (imm : BitVec 13) (rs2 rs1 : RegIdx) (funct3 : BitVec 3) (c : OpClass) :
    (encodeB imm rs2 rs1 funct3 c).extractLsb' 8 4 = imm.extractLsb' 1 4 :=
  (slice_hi _ c.code 1 4).trans <| (slice_hi _ (imm.extractLsb' 11 1) 0 4).trans <|
    slice_lo _ (imm.extractLsb' 1 4)

theorem slice7_encodeB (imm : BitVec 13) (rs2 rs1 : RegIdx) (funct3 : BitVec 3) (c : OpClass) :
    (encodeB imm rs2 rs1 funct3 c).extractLsb' 7 1 = imm.extractLsb' 11 1 :=
  (slice_hi _ c.code 0 1).trans <| slice_lo _ (imm.extractLsb' 11 1)

@[simp] theorem opcodeField_encodeB (imm : BitVec 13) (rs2 rs1 : RegIdx) (funct3 : BitVec 3) (c : OpClass) :
    opcodeField (encodeB imm rs2 rs1 funct3 c) = c.code :=
  slice_lo _ c.code

@[simp] theorem immB_encodeB (imm : BitVec 13) (rs2 rs1 : RegIdx) (funct3 : BitVec 3) (c : OpClass)
    (h : evenOffset imm = true) : immB (encodeB imm rs2 rs1 funct3 c) = imm := by
  rw [immB, slice31_encodeB, slice7_encodeB, slice25_encodeB, slice8_encodeB, join_immB imm h]

/-! ## The U layout -/

@[simp] theorem immU_encodeU (imm : BitVec 20) (rd : RegIdx) (c : OpClass) :
    immU (encodeU imm rd c) = imm :=
  (slice_hi _ c.code 5 20).trans <| (slice_hi _ rd 0 20).trans <| slice_all imm

@[simp] theorem rdField_encodeU (imm : BitVec 20) (rd : RegIdx) (c : OpClass) :
    rdField (encodeU imm rd c) = rd :=
  (slice_hi _ c.code 0 5).trans <| slice_lo _ rd

@[simp] theorem opcodeField_encodeU (imm : BitVec 20) (rd : RegIdx) (c : OpClass) :
    opcodeField (encodeU imm rd c) = c.code :=
  slice_lo _ c.code

/-! ## The J layout -/

theorem slice31_encodeJ (imm : BitVec 21) (rd : RegIdx) (c : OpClass) :
    (encodeJ imm rd c).extractLsb' 31 1 = imm.extractLsb' 20 1 :=
  (slice_hi _ c.code 24 1).trans <| (slice_hi _ rd 19 1).trans <|
    (slice_hi _ (imm.extractLsb' 12 8) 11 1).trans <| (slice_hi _ (imm.extractLsb' 11 1) 10 1).trans <|
    (slice_hi _ (imm.extractLsb' 1 10) 0 1).trans <| slice_all (imm.extractLsb' 20 1)

theorem slice21_encodeJ (imm : BitVec 21) (rd : RegIdx) (c : OpClass) :
    (encodeJ imm rd c).extractLsb' 21 10 = imm.extractLsb' 1 10 :=
  (slice_hi _ c.code 14 10).trans <| (slice_hi _ rd 9 10).trans <|
    (slice_hi _ (imm.extractLsb' 12 8) 1 10).trans <| (slice_hi _ (imm.extractLsb' 11 1) 0 10).trans <|
    slice_lo _ (imm.extractLsb' 1 10)

theorem slice20_encodeJ (imm : BitVec 21) (rd : RegIdx) (c : OpClass) :
    (encodeJ imm rd c).extractLsb' 20 1 = imm.extractLsb' 11 1 :=
  (slice_hi _ c.code 13 1).trans <| (slice_hi _ rd 8 1).trans <|
    (slice_hi _ (imm.extractLsb' 12 8) 0 1).trans <| slice_lo _ (imm.extractLsb' 11 1)

theorem slice12_encodeJ (imm : BitVec 21) (rd : RegIdx) (c : OpClass) :
    (encodeJ imm rd c).extractLsb' 12 8 = imm.extractLsb' 12 8 :=
  (slice_hi _ c.code 5 8).trans <| (slice_hi _ rd 0 8).trans <| slice_lo _ (imm.extractLsb' 12 8)

@[simp] theorem rdField_encodeJ (imm : BitVec 21) (rd : RegIdx) (c : OpClass) :
    rdField (encodeJ imm rd c) = rd :=
  (slice_hi _ c.code 0 5).trans <| slice_lo _ rd

@[simp] theorem opcodeField_encodeJ (imm : BitVec 21) (rd : RegIdx) (c : OpClass) :
    opcodeField (encodeJ imm rd c) = c.code :=
  slice_lo _ c.code

@[simp] theorem immJ_encodeJ (imm : BitVec 21) (rd : RegIdx) (c : OpClass)
    (h : evenOffset imm = true) : immJ (encodeJ imm rd c) = imm := by
  rw [immJ, slice31_encodeJ, slice12_encodeJ, slice20_encodeJ, slice21_encodeJ, join_immJ imm h]

/-! ## Opcode classes -/

@[simp] theorem opClassOf_code (c : OpClass) : opClassOf c.code = some c := by cases c <;> rfl

/-- The class an opcode selects has that opcode. -/
theorem code_of_opClassOf {op : BitVec 7} {c : OpClass} (h : opClassOf op = some c) : c.code = op := by
  have := List.find?_some h
  exact beq_iff_eq.mp this

/-! ## Masks (rules R66 to R73) -/

theorem and_7F (w : Word) : w &&& 0x0000007F#32 = (opcodeField w).setWidth 32 := by
  ext i hi
  unfold opcodeField
  interval_cases i <;> simp

theorem and_707F (w : Word) :
    w &&& 0x0000707F#32 = (opcodeField w).setWidth 32 ||| (funct3Field w).setWidth 32 <<< 12 := by
  ext i hi
  unfold opcodeField funct3Field
  interval_cases i <;> simp

theorem and_FE00707F (w : Word) :
    w &&& 0xFE00707F#32 =
      (opcodeField w).setWidth 32 ||| (funct3Field w).setWidth 32 <<< 12 ||| (funct7Field w).setWidth 32 <<< 25 := by
  ext i hi
  unfold opcodeField funct3Field funct7Field
  interval_cases i <;> simp

/-- A slice of a word under a mask that covers it. -/
theorem slice_and {w m : Word} {k n : Nat} (h : m.extractLsb' k n = BitVec.allOnes n) :
    (w &&& m).extractLsb' k n = w.extractLsb' k n := by
  rw [BitVec.extractLsb'_and, h, BitVec.and_allOnes]

theorem matches_7F {w p : Word} (hp : p &&& 0x0000007F#32 = p) :
    w &&& 0x0000007F#32 = p ↔ opcodeField w = opcodeField p := by
  constructor
  · intro h
    rw [← h]
    exact (slice_and (by decide)).symm
  · intro h
    rw [and_7F, h, ← and_7F, hp]

theorem matches_707F {w p : Word} (hp : p &&& 0x0000707F#32 = p) :
    w &&& 0x0000707F#32 = p ↔ opcodeField w = opcodeField p ∧ funct3Field w = funct3Field p := by
  constructor
  · intro h
    rw [← h]
    exact ⟨(slice_and (by decide)).symm, (slice_and (by decide)).symm⟩
  · rintro ⟨h0, h3⟩
    rw [and_707F, h0, h3, ← and_707F, hp]

theorem matches_FE00707F {w p : Word} (hp : p &&& 0xFE00707F#32 = p) :
    w &&& 0xFE00707F#32 = p ↔
      opcodeField w = opcodeField p ∧ funct3Field w = funct3Field p ∧ funct7Field w = funct7Field p := by
  constructor
  · intro h
    rw [← h]
    exact ⟨(slice_and (by decide)).symm, (slice_and (by decide)).symm, (slice_and (by decide)).symm⟩
  · rintro ⟨h0, h3, h7⟩
    rw [and_FE00707F, h0, h3, h7, ← and_FE00707F, hp]

/-! ## A word put together from its fields -/

theorem encodeR_fields {w : Word} {c : OpClass} (h : c.code = opcodeField w) :
    encodeR (funct7Field w) (rs2Field w) (rs1Field w) (funct3Field w) (rdField w) c = w :=
  (slice_join 0 7 (slice_join 7 5 (slice_join 12 3 (slice_join 15 5 (slice_join 20 5 rfl rfl) rfl) rfl) rfl) h).trans
    (slice_all w)

theorem encodeI_fields {w : Word} {c : OpClass} (h : c.code = opcodeField w) :
    encodeI (immI w) (rs1Field w) (funct3Field w) (rdField w) c = w :=
  (slice_join 0 7 (slice_join 7 5 (slice_join 12 3 (slice_join 15 5 rfl rfl) rfl) rfl) h).trans (slice_all w)

theorem encodeU_fields {w : Word} {c : OpClass} (h : c.code = opcodeField w) :
    encodeU (immU w) (rdField w) c = w :=
  (slice_join 0 7 (slice_join 7 5 rfl rfl) h).trans (slice_all w)

theorem encodeS_fields {w : Word} {c : OpClass} (h : c.code = opcodeField w) :
    encodeS (immS w) (rs2Field w) (rs1Field w) (funct3Field w) c = w :=
  have h25 : (immS w).extractLsb' 5 7 = w.extractLsb' 25 7 :=
    (slice_hi (w.extractLsb' 25 7) (w.extractLsb' 7 5) 0 7).trans (slice_all _)
  have h7 : (immS w).extractLsb' 0 5 = w.extractLsb' 7 5 := slice_lo _ (w.extractLsb' 7 5)
  (slice_join 0 7 (slice_join 7 5 (slice_join 12 3 (slice_join 15 5 (slice_join 20 5 h25 rfl) rfl) rfl) h7) h).trans
    (slice_all w)

theorem encodeB_fields {w : Word} {c : OpClass} (h : c.code = opcodeField w) :
    encodeB (immB w) (rs2Field w) (rs1Field w) (funct3Field w) c = w :=
  have h31 : (immB w).extractLsb' 12 1 = w.extractLsb' 31 1 :=
    (slice_hi _ 0#1 11 1).trans <| (slice_hi _ (w.extractLsb' 8 4) 7 1).trans <|
    (slice_hi _ (w.extractLsb' 25 6) 1 1).trans <| (slice_hi _ (w.extractLsb' 7 1) 0 1).trans <| slice_all _
  have h25 : (immB w).extractLsb' 5 6 = w.extractLsb' 25 6 :=
    (slice_hi _ 0#1 4 6).trans <| (slice_hi _ (w.extractLsb' 8 4) 0 6).trans <| slice_lo _ (w.extractLsb' 25 6)
  have h8 : (immB w).extractLsb' 1 4 = w.extractLsb' 8 4 :=
    (slice_hi _ 0#1 0 4).trans <| slice_lo _ (w.extractLsb' 8 4)
  have h7 : (immB w).extractLsb' 11 1 = w.extractLsb' 7 1 :=
    (slice_hi _ 0#1 10 1).trans <| (slice_hi _ (w.extractLsb' 8 4) 6 1).trans <|
    (slice_hi _ (w.extractLsb' 25 6) 0 1).trans <| slice_lo _ (w.extractLsb' 7 1)
  (slice_join 0 7 (slice_join 7 1 (slice_join 8 4 (slice_join 12 3 (slice_join 15 5 (slice_join 20 5
    (slice_join 25 6 h31 h25) rfl) rfl) rfl) h8) h7) h).trans (slice_all w)

theorem encodeJ_fields {w : Word} {c : OpClass} (h : c.code = opcodeField w) :
    encodeJ (immJ w) (rdField w) c = w :=
  have h31 : (immJ w).extractLsb' 20 1 = w.extractLsb' 31 1 :=
    (slice_hi _ 0#1 19 1).trans <| (slice_hi _ (w.extractLsb' 21 10) 9 1).trans <|
    (slice_hi _ (w.extractLsb' 20 1) 8 1).trans <| (slice_hi _ (w.extractLsb' 12 8) 0 1).trans <| slice_all _
  have h21 : (immJ w).extractLsb' 1 10 = w.extractLsb' 21 10 :=
    (slice_hi _ 0#1 0 10).trans <| slice_lo _ (w.extractLsb' 21 10)
  have h20 : (immJ w).extractLsb' 11 1 = w.extractLsb' 20 1 :=
    (slice_hi _ 0#1 10 1).trans <| (slice_hi _ (w.extractLsb' 21 10) 0 1).trans <| slice_lo _ (w.extractLsb' 20 1)
  have h12 : (immJ w).extractLsb' 12 8 = w.extractLsb' 12 8 :=
    (slice_hi _ 0#1 11 8).trans <| (slice_hi _ (w.extractLsb' 21 10) 1 8).trans <|
    (slice_hi _ (w.extractLsb' 20 1) 0 8).trans <| slice_lo _ (w.extractLsb' 12 8)
  (slice_join 0 7 (slice_join 7 5 (slice_join 12 8 (slice_join 20 1 (slice_join 21 10 h31 h21) h20) h12) rfl) h).trans
    (slice_all w)

theorem evenOffset_immB (w : Word) : evenOffset (immB w) = true := beq_iff_eq.mpr (slice_lo _ 0#1)

theorem evenOffset_immJ (w : Word) : evenOffset (immJ w) = true := beq_iff_eq.mpr (slice_lo _ 0#1)

/-- The shift selector is the top of the I immediate (R59). -/
theorem immI_slice_hi (w : Word) : (immI w).extractLsb' 5 7 = funct7Field w := by
  apply BitVec.eq_of_toNat_eq
  rw [immI, funct7Field, slice_toNat, slice_toNat, slice_toNat]
  have := w.isLt
  norm_num at *
  omega

/-! ## Bytes of a word -/

/-- Laying a word out in memory byte by byte and reading it back changes nothing (R31). -/
@[simp] theorem wordOfBytes_slices (w : Word) :
    wordOfBytes (w.extractLsb' 0 8) (w.extractLsb' 8 8) (w.extractLsb' 16 8) (w.extractLsb' 24 8) = w :=
  (slice_join 0 8 (slice_join 8 8 (slice_join 16 8 rfl rfl) rfl) rfl).trans (slice_all w)

@[simp] theorem decodeBytes_bytesOfWord (w : Word) : decodeBytes (bytesOfWord w) = some (decode w, []) := by
  rw [bytesOfWord, decodeBytes, wordOfBytes_slices]

end Sys2Proof
end

