-- ==== Sys2Proof/Laws/Memory.lean ====
section
/-! SUPPORT. The laws of the byte array: a read after a write, every other byte left alone, and the
canonical form kept by every operation. -/

namespace Sys2Proof.Machine

/-! ## The canonical form -/

theorem Memory.wfFrom_cons {b lo : Nat} {v : Byte} {m : Memory} :
    Memory.wfFrom ((b, v) :: m) lo = true ↔ lo ≤ b ∧ v ≠ 0#8 ∧ Memory.wfFrom m (b + 1) = true := by
  simp [Memory.wfFrom, and_assoc]

theorem Memory.wfFrom_mono {m : Memory} {a b : Nat} (hab : a ≤ b) (h : m.wfFrom b = true) : m.wfFrom a = true := by
  cases m with
  | nil => rfl
  | cons c m =>
    rw [Memory.wfFrom_cons] at h ⊢
    exact ⟨hab.trans h.1, h.2⟩

/-- An address below every entry of a list reads as 0. -/
theorem Memory.read_of_wfFrom {m : Memory} {a b : Nat} (h : m.wfFrom a = true) (hb : b < a) : m.read b = 0#8 := by
  induction m generalizing a with
  | nil => rfl
  | cons c m ih =>
    rw [Memory.wfFrom_cons] at h
    rw [Memory.read, if_neg (by omega)]
    exact ih h.2.2 (by omega)

theorem Memory.cons_wfFrom {m : Memory} {a lo : Nat} {v : Byte} (hlo : lo ≤ a) (h : m.wfFrom (a + 1) = true) :
    (Memory.cons a v m).wfFrom lo = true := by
  unfold Memory.cons
  split
  · exact Memory.wfFrom_mono (by omega) h
  · next hv => exact Memory.wfFrom_cons.mpr ⟨hlo, hv, h⟩

theorem Memory.write_wfFrom {m : Memory} {a lo : Nat} {v : Byte} (hlo : lo ≤ a) (h : m.wfFrom lo = true) :
    (m.write a v).wfFrom lo = true := by
  induction m generalizing lo with
  | nil => exact Memory.cons_wfFrom hlo rfl
  | cons c m ih =>
    obtain ⟨k, w⟩ := c
    rw [Memory.wfFrom_cons] at h
    simp only [Memory.write]
    split
    · next hak => exact Memory.cons_wfFrom hlo (Memory.wfFrom_cons.mpr ⟨hak, h.2⟩)
    · split
      · next hak => subst hak; exact Memory.cons_wfFrom hlo h.2.2
      · exact Memory.wfFrom_cons.mpr ⟨h.1, h.2.1, ih (by omega) h.2.2⟩

/-- A write keeps the canonical form. -/
theorem Memory.write_wf {m : Memory} (h : m.wf = true) (a : Nat) (v : Byte) : (m.write a v).wf = true :=
  Memory.write_wfFrom (Nat.zero_le a) h

/-- A write of several bytes keeps the canonical form. -/
theorem Memory.writeBytes_wf {m : Memory} (h : m.wf = true) (a : Nat) (bs : List Byte) :
    (m.writeBytes a bs).wf = true := by
  induction bs generalizing m a with
  | nil => exact h
  | cons b bs ih => exact ih (Memory.write_wf h a b) (a + 1)

/-! ## Reading what was written -/

theorem Memory.read_cons_same {a : Nat} {v : Byte} {m : Memory} (h : m.wfFrom (a + 1) = true) :
    (Memory.cons a v m).read a = v := by
  unfold Memory.cons
  split
  · next hv => rw [Memory.read_of_wfFrom h (Nat.lt_succ_self a), hv]
  · simp [Memory.read]

theorem Memory.read_cons_other {a b : Nat} {v : Byte} {m : Memory} (h : b ≠ a) :
    (Memory.cons a v m).read b = m.read b := by
  unfold Memory.cons
  split
  · rfl
  · rw [Memory.read, if_neg (Ne.symm h)]

theorem Memory.read_write_same_from {m : Memory} {lo : Nat} (h : m.wfFrom lo = true) (a : Nat) (v : Byte) :
    (m.write a v).read a = v := by
  induction m generalizing lo with
  | nil => exact Memory.read_cons_same rfl
  | cons c m ih =>
    obtain ⟨k, w⟩ := c
    rw [Memory.wfFrom_cons] at h
    simp only [Memory.write]
    split
    · next hak => exact Memory.read_cons_same (Memory.wfFrom_cons.mpr ⟨hak, h.2⟩)
    · split
      · next hak => subst hak; exact Memory.read_cons_same h.2.2
      · next hak => rw [Memory.read, if_neg (Ne.symm hak)]; exact ih h.2.2

/-- The byte written is the byte read. -/
theorem Memory.read_write_same {m : Memory} (h : m.wf = true) (a : Nat) (v : Byte) : (m.write a v).read a = v :=
  Memory.read_write_same_from h a v

/-- Every other byte reads as before, in every list. -/
theorem Memory.read_write_other {a b : Nat} (h : b ≠ a) (m : Memory) (v : Byte) :
    (m.write a v).read b = m.read b := by
  induction m with
  | nil => exact Memory.read_cons_other h
  | cons c m ih =>
    obtain ⟨k, w⟩ := c
    simp only [Memory.write]
    split
    · exact Memory.read_cons_other h
    · split
      · next hak => subst hak; rw [Memory.read_cons_other h, Memory.read, if_neg (Ne.symm h)]
      · simp only [Memory.read, ih]

/-- Outside the bytes written, every byte reads as before. -/
theorem Memory.read_writeBytes_outside {m : Memory} {a b : Nat} {bs : List Byte} (h : b < a ∨ a + bs.length ≤ b) :
    (m.writeBytes a bs).read b = m.read b := by
  induction bs generalizing m a with
  | nil => rfl
  | cons c bs ih =>
    simp only [List.length_cons] at h
    rw [Memory.writeBytes, ih (by omega), Memory.read_write_other (by omega)]

/-- Inside, the bytes written are read. -/
theorem Memory.read_writeBytes_inside {m : Memory} (hm : m.wf = true) {a k : Nat} {bs : List Byte}
    (hk : k < bs.length) : (m.writeBytes a bs).read (a + k) = bs[k] := by
  induction bs generalizing m a k with
  | nil => exact absurd hk (Nat.not_lt_zero k)
  | cons c bs ih =>
    rw [Memory.writeBytes]
    cases k with
    | zero =>
      rw [Memory.read_writeBytes_outside (by omega), Nat.add_zero, Memory.read_write_same hm]
      rfl
    | succ k =>
      rw [show a + (k + 1) = a + 1 + k by omega, ih (Memory.write_wf hm a c) (by simpa using hk)]
      rfl

@[simp] theorem Memory.length_readBytes (m : Memory) (a n : Nat) : (m.readBytes a n).length = n := by
  induction n generalizing a with
  | zero => rfl
  | succ n ih => simp [Memory.readBytes, ih]

/-- `readBytes` lists the bytes in ascending order. -/
theorem Memory.readBytes_eq_map (m : Memory) (a n : Nat) :
    m.readBytes a n = (List.range n).map (fun k => m.read (a + k)) := by
  induction n generalizing a with
  | zero => rfl
  | succ n ih =>
    rw [Memory.readBytes, ih, List.range_succ_eq_map]
    simp [Nat.add_comm, Nat.add_left_comm]

/-! ## Nothing beyond the end of memory -/

theorem Memory.below_cons {c : Host.Cell} {m : Memory} {size : Nat} :
    Memory.below (c :: m) size = true ↔ c.1 < size ∧ Memory.below m size = true := by
  simp [Memory.below]

theorem Memory.write_below {m : Memory} {size a : Nat} (h : m.below size = true) (ha : a < size) (v : Byte) :
    (m.write a v).below size = true := by
  have hcons : ∀ {m' : Memory}, m'.below size = true → (Memory.cons a v m').below size = true := by
    intro m' hm'
    unfold Memory.cons
    split
    · exact hm'
    · exact Memory.below_cons.mpr ⟨ha, hm'⟩
  induction m with
  | nil => exact hcons h
  | cons c m ih =>
    obtain ⟨k, w⟩ := c
    have hc := Memory.below_cons.mp h
    simp only [Memory.write]
    split
    · exact hcons h
    · split
      · exact hcons hc.2
      · exact Memory.below_cons.mpr ⟨hc.1, ih hc.2⟩

theorem Memory.writeBytes_below {m : Memory} {size a : Nat} {bs : List Byte} (h : m.below size = true)
    (ha : a + bs.length ≤ size) : (m.writeBytes a bs).below size = true := by
  induction bs generalizing m a with
  | nil => exact h
  | cons b bs ih =>
    simp only [List.length_cons] at ha
    exact ih (Memory.write_below h (by omega) b) (by omega)

/-! ## Equal memories are equal data -/

/-- Two lists in canonical form that read alike are the same list. -/
theorem Memory.ext_from {m n : Memory} {lo : Nat} (hm : m.wfFrom lo = true) (hn : n.wfFrom lo = true)
    (h : ∀ a, m.read a = n.read a) : m = n := by
  induction m generalizing n lo with
  | nil =>
    cases n with
    | nil => rfl
    | cons d n =>
      have hd := h d.1
      rw [Memory.wfFrom_cons] at hn
      simp [Memory.read] at hd
      exact absurd hd.symm hn.2.1
  | cons c m ih =>
    cases n with
    | nil =>
      have hc := h c.1
      rw [Memory.wfFrom_cons] at hm
      simp [Memory.read] at hc
      exact absurd hc hm.2.1
    | cons d n =>
      obtain ⟨a, v⟩ := c
      obtain ⟨b, w⟩ := d
      rw [Memory.wfFrom_cons] at hm hn
      have hab : a = b := by
        rcases Nat.lt_trichotomy a b with hlt | heq | hgt
        · have hx := h a
          rw [Memory.read, if_pos rfl, Memory.read, if_neg (by omega),
            Memory.read_of_wfFrom hn.2.2 (by omega)] at hx
          exact absurd hx hm.2.1
        · exact heq
        · have hx := h b
          rw [Memory.read, if_neg (by omega), Memory.read, if_pos rfl,
            Memory.read_of_wfFrom hm.2.2 (by omega)] at hx
          exact absurd hx.symm hn.2.1
      subst hab
      have hvw : v = w := by simpa [Memory.read] using h a
      subst hvw
      have htail : m = n := ih hm.2.2 hn.2.2 (by
        intro x
        by_cases hx : a = x
        · subst hx
          rw [Memory.read_of_wfFrom hm.2.2 (by omega), Memory.read_of_wfFrom hn.2.2 (by omega)]
        · simpa [Memory.read, hx] using h x)
      rw [htail]

end Sys2Proof.Machine
end

