-- ==== Sys2Proof/Laws/State.lean ====
section
/-! SUPPORT. What each named update of the state leaves in each field: one lemma per field and update, and
the laws of the register ports (`spec/10_state.md` rules R10 to R12). -/

namespace Sys2Proof.Machine

variable (s : State)

@[simp] theorem State.writeReg_pc (r : RegIdx) (v : Word) : (s.writeReg r v).pc = s.pc := by unfold State.writeReg; split <;> rfl
@[simp] theorem State.writeReg_mem (r : RegIdx) (v : Word) : (s.writeReg r v).mem = s.mem := by unfold State.writeReg; split <;> rfl
@[simp] theorem State.writeReg_terminated (r : RegIdx) (v : Word) : (s.writeReg r v).terminated = s.terminated := by unfold State.writeReg; split <;> rfl
@[simp] theorem State.writeReg_termCause (r : RegIdx) (v : Word) : (s.writeReg r v).termCause = s.termCause := by unfold State.writeReg; split <;> rfl
@[simp] theorem State.writeReg_exitCode (r : RegIdx) (v : Word) : (s.writeReg r v).exitCode = s.exitCode := by unfold State.writeReg; split <;> rfl
@[simp] theorem State.writeReg_fault (r : RegIdx) (v : Word) : (s.writeReg r v).fault = s.fault := by unfold State.writeReg; split <;> rfl
@[simp] theorem State.writeReg_execRanges (r : RegIdx) (v : Word) : (s.writeReg r v).execRanges = s.execRanges := by unfold State.writeReg; split <;> rfl
@[simp] theorem State.writeReg_params (r : RegIdx) (v : Word) : (s.writeReg r v).params = s.params := by unfold State.writeReg; split <;> rfl
@[simp] theorem State.writeReg_hostReplies (r : RegIdx) (v : Word) : (s.writeReg r v).hostReplies = s.hostReplies := by unfold State.writeReg; split <;> rfl
@[simp] theorem State.writeReg_hostCalls (r : RegIdx) (v : Word) : (s.writeReg r v).hostCalls = s.hostCalls := by unfold State.writeReg; split <;> rfl

@[simp] theorem State.setPc_regs (t : Word) : (s.setPc t).regs = s.regs := rfl
@[simp] theorem State.setPc_pc (t : Word) : (s.setPc t).pc = t := rfl
@[simp] theorem State.setPc_mem (t : Word) : (s.setPc t).mem = s.mem := rfl
@[simp] theorem State.setPc_terminated (t : Word) : (s.setPc t).terminated = s.terminated := rfl
@[simp] theorem State.setPc_termCause (t : Word) : (s.setPc t).termCause = s.termCause := rfl
@[simp] theorem State.setPc_exitCode (t : Word) : (s.setPc t).exitCode = s.exitCode := rfl
@[simp] theorem State.setPc_fault (t : Word) : (s.setPc t).fault = s.fault := rfl
@[simp] theorem State.setPc_execRanges (t : Word) : (s.setPc t).execRanges = s.execRanges := rfl
@[simp] theorem State.setPc_params (t : Word) : (s.setPc t).params = s.params := rfl
@[simp] theorem State.setPc_hostReplies (t : Word) : (s.setPc t).hostReplies = s.hostReplies := rfl
@[simp] theorem State.setPc_hostCalls (t : Word) : (s.setPc t).hostCalls = s.hostCalls := rfl

@[simp] theorem State.advance_regs : (s.advance).regs = s.regs := rfl
@[simp] theorem State.advance_pc : (s.advance).pc = s.pcPlus4 := rfl
@[simp] theorem State.advance_mem : (s.advance).mem = s.mem := rfl
@[simp] theorem State.advance_terminated : (s.advance).terminated = s.terminated := rfl
@[simp] theorem State.advance_termCause : (s.advance).termCause = s.termCause := rfl
@[simp] theorem State.advance_exitCode : (s.advance).exitCode = s.exitCode := rfl
@[simp] theorem State.advance_fault : (s.advance).fault = s.fault := rfl
@[simp] theorem State.advance_execRanges : (s.advance).execRanges = s.execRanges := rfl
@[simp] theorem State.advance_params : (s.advance).params = s.params := rfl
@[simp] theorem State.advance_hostReplies : (s.advance).hostReplies = s.hostReplies := rfl
@[simp] theorem State.advance_hostCalls : (s.advance).hostCalls = s.hostCalls := rfl

@[simp] theorem State.latch_regs (c : ErrCode) (w : Word) : (s.latch c w).regs = s.regs := rfl
@[simp] theorem State.latch_pc (c : ErrCode) (w : Word) : (s.latch c w).pc = s.pc := rfl
@[simp] theorem State.latch_mem (c : ErrCode) (w : Word) : (s.latch c w).mem = s.mem := rfl
@[simp] theorem State.latch_terminated (c : ErrCode) (w : Word) : (s.latch c w).terminated = s.terminated := rfl
@[simp] theorem State.latch_termCause (c : ErrCode) (w : Word) : (s.latch c w).termCause = s.termCause := rfl
@[simp] theorem State.latch_exitCode (c : ErrCode) (w : Word) : (s.latch c w).exitCode = s.exitCode := rfl
@[simp] theorem State.latch_fault (c : ErrCode) (w : Word) : (s.latch c w).fault = ⟨c, w⟩ := rfl
@[simp] theorem State.latch_execRanges (c : ErrCode) (w : Word) : (s.latch c w).execRanges = s.execRanges := rfl
@[simp] theorem State.latch_params (c : ErrCode) (w : Word) : (s.latch c w).params = s.params := rfl
@[simp] theorem State.latch_hostReplies (c : ErrCode) (w : Word) : (s.latch c w).hostReplies = s.hostReplies := rfl
@[simp] theorem State.latch_hostCalls (c : ErrCode) (w : Word) : (s.latch c w).hostCalls = s.hostCalls := rfl

@[simp] theorem State.finish_regs (c : TermCause) : (s.finish c).regs = s.regs := rfl
@[simp] theorem State.finish_pc (c : TermCause) : (s.finish c).pc = s.pc := rfl
@[simp] theorem State.finish_mem (c : TermCause) : (s.finish c).mem = s.mem := rfl
@[simp] theorem State.finish_terminated (c : TermCause) : (s.finish c).terminated = true := rfl
@[simp] theorem State.finish_termCause (c : TermCause) : (s.finish c).termCause = c := rfl
@[simp] theorem State.finish_exitCode (c : TermCause) : (s.finish c).exitCode = s.exitCode := rfl
@[simp] theorem State.finish_fault (c : TermCause) : (s.finish c).fault = s.fault := rfl
@[simp] theorem State.finish_execRanges (c : TermCause) : (s.finish c).execRanges = s.execRanges := rfl
@[simp] theorem State.finish_params (c : TermCause) : (s.finish c).params = s.params := rfl
@[simp] theorem State.finish_hostReplies (c : TermCause) : (s.finish c).hostReplies = s.hostReplies := rfl
@[simp] theorem State.finish_hostCalls (c : TermCause) : (s.finish c).hostCalls = s.hostCalls := rfl

@[simp] theorem State.tellHost_regs (c : HostCall) : (s.tellHost c).regs = s.regs := rfl
@[simp] theorem State.tellHost_pc (c : HostCall) : (s.tellHost c).pc = s.pc := rfl
@[simp] theorem State.tellHost_mem (c : HostCall) : (s.tellHost c).mem = s.mem := rfl
@[simp] theorem State.tellHost_terminated (c : HostCall) : (s.tellHost c).terminated = s.terminated := rfl
@[simp] theorem State.tellHost_termCause (c : HostCall) : (s.tellHost c).termCause = s.termCause := rfl
@[simp] theorem State.tellHost_exitCode (c : HostCall) : (s.tellHost c).exitCode = s.exitCode := rfl
@[simp] theorem State.tellHost_fault (c : HostCall) : (s.tellHost c).fault = s.fault := rfl
@[simp] theorem State.tellHost_execRanges (c : HostCall) : (s.tellHost c).execRanges = s.execRanges := rfl
@[simp] theorem State.tellHost_params (c : HostCall) : (s.tellHost c).params = s.params := rfl
@[simp] theorem State.tellHost_hostReplies (c : HostCall) : (s.tellHost c).hostReplies = s.hostReplies := rfl
@[simp] theorem State.tellHost_hostCalls (c : HostCall) : (s.tellHost c).hostCalls = s.hostCalls ++ [c] := rfl

@[simp] theorem State.callHost_regs (c : HostCall) : (s.callHost c).regs = s.regs := rfl
@[simp] theorem State.callHost_pc (c : HostCall) : (s.callHost c).pc = s.pc := rfl
@[simp] theorem State.callHost_mem (c : HostCall) : (s.callHost c).mem = s.mem := rfl
@[simp] theorem State.callHost_terminated (c : HostCall) : (s.callHost c).terminated = s.terminated := rfl
@[simp] theorem State.callHost_termCause (c : HostCall) : (s.callHost c).termCause = s.termCause := rfl
@[simp] theorem State.callHost_exitCode (c : HostCall) : (s.callHost c).exitCode = s.exitCode := rfl
@[simp] theorem State.callHost_fault (c : HostCall) : (s.callHost c).fault = s.fault := rfl
@[simp] theorem State.callHost_execRanges (c : HostCall) : (s.callHost c).execRanges = s.execRanges := rfl
@[simp] theorem State.callHost_params (c : HostCall) : (s.callHost c).params = s.params := rfl
@[simp] theorem State.callHost_hostReplies (c : HostCall) : (s.callHost c).hostReplies = s.hostReplies.tail := rfl
@[simp] theorem State.callHost_hostCalls (c : HostCall) : (s.callHost c).hostCalls = s.hostCalls ++ [c] := rfl

/-! ## Register ports -/

@[simp] theorem State.readReg_zero : s.readReg 0#5 = 0#32 := rfl

@[simp] theorem State.writeReg_zero (v : Word) : s.writeReg 0#5 v = s := rfl

/-- Reading depends on the register file alone. -/
theorem State.readReg_congr {s t : State} (h : t.regs = s.regs) (r : RegIdx) : t.readReg r = s.readReg r := by
  unfold State.readReg
  split
  · rfl
  · simp only [h]

theorem regIdx_cell_injective {r q : RegIdx} (hr : r ≠ 0#5) (hq : q ≠ 0#5) (h : r.toNat - 1 = q.toNat - 1) : r = q := by
  have h1 : r.toNat ≠ 0 := fun h0 => hr (BitVec.eq_of_toNat_eq (by simpa using h0))
  have h2 : q.toNat ≠ 0 := fun h0 => hq (BitVec.eq_of_toNat_eq (by simpa using h0))
  exact BitVec.eq_of_toNat_eq (by omega)

/-- What a read gives after a write, for every pair of registers. -/
theorem State.readReg_writeReg (r q : RegIdx) (v : Word) :
    (s.writeReg r v).readReg q = if q = 0#5 then 0#32 else if q = r then v else s.readReg q := by
  by_cases hq : q = 0#5
  · subst hq; rfl
  · by_cases hr : r = 0#5
    · subst hr; simp [hq]
    · by_cases hqr : q = r
      · subst hqr; simp [State.readReg, State.writeReg, hq]
      · have hne : r.toNat - 1 ≠ q.toNat - 1 := fun h => hqr (regIdx_cell_injective hr hq h).symm
        simp [State.readReg, State.writeReg, hq, hr, hqr, hne]

theorem State.readReg_writeReg_same (r : RegIdx) (v : Word) :
    (s.writeReg r v).readReg r = if r = 0#5 then 0#32 else v := by simp [State.readReg_writeReg]

theorem State.readReg_writeReg_other {r q : RegIdx} (h : q ≠ r) (v : Word) :
    (s.writeReg r v).readReg q = s.readReg q := by
  rw [State.readReg_writeReg]
  split
  · next hq => subst hq; rfl
  · rfl

@[simp] theorem State.readReg_setPc (t : Word) (r : RegIdx) : (s.setPc t).readReg r = s.readReg r := rfl
@[simp] theorem State.readReg_advance (r : RegIdx) : (s.advance).readReg r = s.readReg r := rfl
@[simp] theorem State.readReg_latch (c : ErrCode) (w : Word) (r : RegIdx) : (s.latch c w).readReg r = s.readReg r := rfl
@[simp] theorem State.readReg_finish (c : TermCause) (r : RegIdx) : (s.finish c).readReg r = s.readReg r := rfl
@[simp] theorem State.readReg_tellHost (c : HostCall) (r : RegIdx) : (s.tellHost c).readReg r = s.readReg r := rfl
@[simp] theorem State.readReg_callHost (c : HostCall) (r : RegIdx) : (s.callHost c).readReg r = s.readReg r := rfl

@[simp] theorem State.readReg_resetWith (p : Params) (r : RegIdx) : (State.resetWith p).readReg r = 0#32 := by
  unfold State.readReg
  split
  · rfl
  · simp [State.resetWith]

end Sys2Proof.Machine
end

