-- ==== Sys2Proof/Laws/Ops.lean ====
section
/-! SUPPORT. One lemma per shared operation, saying once what it can answer, and from them the inversion lemma
of `exec`: the nine shapes an instruction's next state can have. -/

namespace Sys2Proof.Machine

variable {s t : State}

/-! ## The operations -/

theorem accessOk_iff {a : Word} {n : Nat} : s.accessOk a n = true ↔ a.toNat + n ≤ s.params.memSize := by
  simp [State.accessOk]

@[simp] theorem length_lowBytes (v : Word) (n : Nat) : (lowBytes v n).length = n := by simp [lowBytes]

theorem aligned_iff {a : Word} : aligned a = true ↔ a.toNat % 4 = 0 := by
  unfold aligned
  rw [beq_iff_eq, ← BitVec.toNat_inj]
  simp

/-- The default increment keeps the alignment of `pc` (R16). -/
theorem aligned_pcPlus4 (h : s.pc.toNat % 4 = 0) : s.pcPlus4.toNat % 4 = 0 := by
  unfold State.pcPlus4
  rw [BitVec.toNat_add]
  simp only [BitVec.toNat_ofNat]
  omega

/-- The bytes a `read` moves fit the buffer. -/
theorem length_delivered (count : Word) : (s.delivered count).length ≤ count.toNat := by
  unfold State.delivered
  split <;> simp_all

/-- When the host reports a count, exactly so many bytes are moved. -/
theorem length_delivered_of_le {count : Word} (h : s.hostReply.result.toNat ≤ count.toNat) :
    (s.delivered count).length = s.hostReply.result.toNat := by
  simp [State.delivered, h]

/-- When the host reports more than was asked, nothing is moved. -/
theorem delivered_of_lt {count : Word} (h : count.toNat < s.hostReply.result.toNat) : s.delivered count = [] := by
  simp [State.delivered, Nat.not_le.mpr h]

/-- Each byte moved is the one the host delivers in its place. -/
theorem getElem_delivered {count : Word} {k : Nat} (h : k < (s.delivered count).length) :
    (s.delivered count)[k] = s.hostByte k := by
  simp only [State.delivered] at h ⊢
  split at h <;> simp_all

/-! ## The shapes of a next state -/

/-- What an instruction can do to a state. -/
inductive Effect (s : State) : State → Prop where
  /-- A register and `pc`. -/
  | wrote (rd : RegIdx) (v p : Word) (h : p = s.pcPlus4 ∨ aligned p = true) : Effect s ((s.writeReg rd v).setPc p)
  /-- `pc` alone. -/
  | moved (p : Word) (h : p = s.pcPlus4 ∨ aligned p = true) : Effect s (s.setPc p)
  /-- `n` bytes of memory and `pc`. -/
  | stored (a : Word) (n : Nat) (v : Word) (h : s.accessOk a n = true) :
    Effect s { s with mem := s.mem.writeBytes a.toNat (lowBytes v n), pc := s.pcPlus4 }
  /-- An error is latched. -/
  | failed (code : ErrCode) (info : Word) (h : code = .misalignedTarget ∨ code = .memOob ∨ code = .syscallUnknown) :
    Effect s (s.latch code info)
  /-- `write`. -/
  | hostWrite (h : s.bufferOk = true) :
    Effect s ((s.callHost s.writeCall).writeReg regA0 s.hostReply.result).advance
  /-- `read`. -/
  | hostRead (h : s.bufferOk = true) :
    Effect s (({ s.callHost (.read (s.arg 0#3) (s.arg 2#3)) with
      mem := s.mem.writeBytes (s.arg 1#3).toNat (s.delivered (s.arg 2#3)) }).writeReg regA0 s.hostReply.result).advance
  /-- `exit`. -/
  | exited :
    Effect s (({ s.tellHost (.exit (s.arg 0#3)) with exitCode := s.arg 0#3 }).finish .exit).advance
  /-- EBREAK. -/
  | broke : Effect s (s.finish .ebreak).advance

/-- The answer is a next state of one of the shapes. -/
def Answers (s : State) (r : Result) : Prop := ∃ t, r = .next t ∧ Effect s t

theorem raiseFault_answers {code : ErrCode} (h : code = .misalignedTarget ∨ code = .memOob ∨ code = .syscallUnknown)
    (info : Word) (s : State) : Answers s (raiseFault code info s) := ⟨_, rfl, .failed code info h⟩

theorem commitNothing_answers (s : State) : Answers s (commitNothing s) := ⟨_, rfl, .moved _ (.inl rfl)⟩

theorem commitReg_answers (rd : RegIdx) (v : Word) (s : State) : Answers s (commitReg rd v s) :=
  ⟨_, rfl, .wrote rd v _ (.inl (by simp [State.pcPlus4]))⟩

theorem jumpAndLink_answers (rd : RegIdx) (target : Word) (s : State) : Answers s (jumpAndLink rd target s) := by
  unfold jumpAndLink
  split
  · exact ⟨_, rfl, .wrote _ _ _ (.inr ‹_›)⟩
  · exact raiseFault_answers (.inl rfl) _ s

theorem branchIf_answers (c : Bool) (imm : BitVec 13) (s : State) : Answers s (branchIf c imm s) := by
  unfold branchIf
  split
  · split
    · exact ⟨_, rfl, .moved _ (.inr ‹_›)⟩
    · exact raiseFault_answers (.inl rfl) _ s
  · exact ⟨_, rfl, .moved _ (.inl rfl)⟩

theorem loadTo_answers {n : Nat} (rd : RegIdx) (a : Word) (d : Option (BitVec n)) (ext : BitVec n → Word) (s : State) :
    Answers s (loadTo rd a d ext s) := by
  cases d with
  | none => exact raiseFault_answers (.inr (.inl rfl)) _ s
  | some v => exact commitReg_answers rd (ext v) s

theorem storeAt_answers (a : Word) (n : Nat) (v : Word) (s : State) : Answers s (storeAt a n v s) := by
  unfold storeAt State.memWrite
  by_cases h : s.accessOk a n = true
  · simp only [h, if_true]
    exact ⟨_, rfl, .stored a n v h⟩
  · simp only [h]
    exact raiseFault_answers (.inr (.inl rfl)) _ s

theorem bridgeWrite_answers (s : State) : Answers s (bridgeWrite s) := by
  unfold bridgeWrite
  split
  · exact ⟨_, rfl, .hostWrite ‹_›⟩
  · exact raiseFault_answers (.inr (.inl rfl)) _ s

theorem bridgeRead_answers (s : State) : Answers s (bridgeRead s) := by
  unfold bridgeRead
  split
  · exact ⟨_, rfl, .hostRead ‹_›⟩
  · exact raiseFault_answers (.inr (.inl rfl)) _ s

theorem bridgeExit_answers (s : State) : Answers s (bridgeExit s) := ⟨_, rfl, .exited⟩

theorem execEcall_answers (s : State) : Answers s (execEcall s) := by
  unfold execEcall
  split
  · exact bridgeWrite_answers s
  · split
    · exact bridgeRead_answers s
    · split
      · exact bridgeExit_answers s
      · exact raiseFault_answers (.inr (.inr rfl)) _ s

/-- Every instruction answers a next state of one of the shapes. -/
theorem exec_answers (i : Instr) (s : State) : Answers s (exec i s) := by
  cases i
  case jal => exact jumpAndLink_answers _ _ s
  case jalr => exact jumpAndLink_answers _ _ s
  case beq => exact branchIf_answers _ _ s
  case bne => exact branchIf_answers _ _ s
  case blt => exact branchIf_answers _ _ s
  case bge => exact branchIf_answers _ _ s
  case bltu => exact branchIf_answers _ _ s
  case bgeu => exact branchIf_answers _ _ s
  case lb => exact loadTo_answers _ _ _ _ s
  case lh => exact loadTo_answers _ _ _ _ s
  case lw => exact loadTo_answers _ _ _ _ s
  case lbu => exact loadTo_answers _ _ _ _ s
  case lhu => exact loadTo_answers _ _ _ _ s
  case sb => exact storeAt_answers _ _ _ s
  case sh => exact storeAt_answers _ _ _ s
  case sw => exact storeAt_answers _ _ _ s
  case fence => exact commitNothing_answers s
  case fenceI => exact commitNothing_answers s
  case ecall => exact execEcall_answers s
  case ebreak => exact ⟨_, rfl, .broke⟩
  all_goals exact commitReg_answers _ _ s

theorem exec_effect {i : Instr} (h : exec i s = .next t) : Effect s t := by
  obtain ⟨t', ht', he⟩ := exec_answers i s
  have : t' = t := by simpa [ht'] using h
  exact this ▸ he

end Sys2Proof.Machine
end

