-- ==== Sys2Proof/Laws/PerInstr.lean ====
section
/-! SUPPORT. A statement about every instruction, one lemma per constructor. The family `TableRow`: the word
of a well-formed instruction is an instance of its row of `spec/opcode_table.json`. -/

namespace Sys2Proof.Laws.TableRow

/-- The word of the instruction agrees with its row's mask and match. -/
def Statement (i : Instr) : Prop := i.wf = true → encode i &&& i.mnemonic.row.mask = i.mnemonic.row.pattern

theorem lui (rd : RegIdx) (imm : BitVec 20) : Statement (.lui rd imm) := fun _ =>
  (matches_7F (p := 0x00000037#32) (by decide)).mpr ((opcodeField_encodeU _ _ _).trans (by decide))

theorem auipc (rd : RegIdx) (imm : BitVec 20) : Statement (.auipc rd imm) := fun _ =>
  (matches_7F (p := 0x00000017#32) (by decide)).mpr ((opcodeField_encodeU _ _ _).trans (by decide))

theorem jal (rd : RegIdx) (imm : BitVec 21) : Statement (.jal rd imm) := fun _ =>
  (matches_7F (p := 0x0000006F#32) (by decide)).mpr ((opcodeField_encodeJ _ _ _).trans (by decide))

theorem jalr (rd rs1 : RegIdx) (imm : BitVec 12) : Statement (.jalr rd rs1 imm) := fun _ =>
  (matches_707F (p := 0x00000067#32) (by decide)).mpr
    ⟨(opcodeField_encodeI _ _ _ _ _).trans (by decide), (funct3Field_encodeI _ _ _ _ _).trans (by decide)⟩

theorem beq (rs1 rs2 : RegIdx) (imm : BitVec 13) : Statement (.beq rs1 rs2 imm) := fun _ =>
  (matches_707F (p := 0x00000063#32) (by decide)).mpr
    ⟨(opcodeField_encodeB _ _ _ _ _).trans (by decide), (funct3Field_encodeB _ _ _ _ _).trans (by decide)⟩

theorem bne (rs1 rs2 : RegIdx) (imm : BitVec 13) : Statement (.bne rs1 rs2 imm) := fun _ =>
  (matches_707F (p := 0x00001063#32) (by decide)).mpr
    ⟨(opcodeField_encodeB _ _ _ _ _).trans (by decide), (funct3Field_encodeB _ _ _ _ _).trans (by decide)⟩

theorem blt (rs1 rs2 : RegIdx) (imm : BitVec 13) : Statement (.blt rs1 rs2 imm) := fun _ =>
  (matches_707F (p := 0x00004063#32) (by decide)).mpr
    ⟨(opcodeField_encodeB _ _ _ _ _).trans (by decide), (funct3Field_encodeB _ _ _ _ _).trans (by decide)⟩

theorem bge (rs1 rs2 : RegIdx) (imm : BitVec 13) : Statement (.bge rs1 rs2 imm) := fun _ =>
  (matches_707F (p := 0x00005063#32) (by decide)).mpr
    ⟨(opcodeField_encodeB _ _ _ _ _).trans (by decide), (funct3Field_encodeB _ _ _ _ _).trans (by decide)⟩

theorem bltu (rs1 rs2 : RegIdx) (imm : BitVec 13) : Statement (.bltu rs1 rs2 imm) := fun _ =>
  (matches_707F (p := 0x00006063#32) (by decide)).mpr
    ⟨(opcodeField_encodeB _ _ _ _ _).trans (by decide), (funct3Field_encodeB _ _ _ _ _).trans (by decide)⟩

theorem bgeu (rs1 rs2 : RegIdx) (imm : BitVec 13) : Statement (.bgeu rs1 rs2 imm) := fun _ =>
  (matches_707F (p := 0x00007063#32) (by decide)).mpr
    ⟨(opcodeField_encodeB _ _ _ _ _).trans (by decide), (funct3Field_encodeB _ _ _ _ _).trans (by decide)⟩

theorem lb (rd rs1 : RegIdx) (imm : BitVec 12) : Statement (.lb rd rs1 imm) := fun _ =>
  (matches_707F (p := 0x00000003#32) (by decide)).mpr
    ⟨(opcodeField_encodeI _ _ _ _ _).trans (by decide), (funct3Field_encodeI _ _ _ _ _).trans (by decide)⟩

theorem lh (rd rs1 : RegIdx) (imm : BitVec 12) : Statement (.lh rd rs1 imm) := fun _ =>
  (matches_707F (p := 0x00001003#32) (by decide)).mpr
    ⟨(opcodeField_encodeI _ _ _ _ _).trans (by decide), (funct3Field_encodeI _ _ _ _ _).trans (by decide)⟩

theorem lw (rd rs1 : RegIdx) (imm : BitVec 12) : Statement (.lw rd rs1 imm) := fun _ =>
  (matches_707F (p := 0x00002003#32) (by decide)).mpr
    ⟨(opcodeField_encodeI _ _ _ _ _).trans (by decide), (funct3Field_encodeI _ _ _ _ _).trans (by decide)⟩

theorem lbu (rd rs1 : RegIdx) (imm : BitVec 12) : Statement (.lbu rd rs1 imm) := fun _ =>
  (matches_707F (p := 0x00004003#32) (by decide)).mpr
    ⟨(opcodeField_encodeI _ _ _ _ _).trans (by decide), (funct3Field_encodeI _ _ _ _ _).trans (by decide)⟩

theorem lhu (rd rs1 : RegIdx) (imm : BitVec 12) : Statement (.lhu rd rs1 imm) := fun _ =>
  (matches_707F (p := 0x00005003#32) (by decide)).mpr
    ⟨(opcodeField_encodeI _ _ _ _ _).trans (by decide), (funct3Field_encodeI _ _ _ _ _).trans (by decide)⟩

theorem sb (rs1 rs2 : RegIdx) (imm : BitVec 12) : Statement (.sb rs1 rs2 imm) := fun _ =>
  (matches_707F (p := 0x00000023#32) (by decide)).mpr
    ⟨(opcodeField_encodeS _ _ _ _ _).trans (by decide), (funct3Field_encodeS _ _ _ _ _).trans (by decide)⟩

theorem sh (rs1 rs2 : RegIdx) (imm : BitVec 12) : Statement (.sh rs1 rs2 imm) := fun _ =>
  (matches_707F (p := 0x00001023#32) (by decide)).mpr
    ⟨(opcodeField_encodeS _ _ _ _ _).trans (by decide), (funct3Field_encodeS _ _ _ _ _).trans (by decide)⟩

theorem sw (rs1 rs2 : RegIdx) (imm : BitVec 12) : Statement (.sw rs1 rs2 imm) := fun _ =>
  (matches_707F (p := 0x00002023#32) (by decide)).mpr
    ⟨(opcodeField_encodeS _ _ _ _ _).trans (by decide), (funct3Field_encodeS _ _ _ _ _).trans (by decide)⟩

theorem addi (rd rs1 : RegIdx) (imm : BitVec 12) : Statement (.addi rd rs1 imm) := fun _ =>
  (matches_707F (p := 0x00000013#32) (by decide)).mpr
    ⟨(opcodeField_encodeI _ _ _ _ _).trans (by decide), (funct3Field_encodeI _ _ _ _ _).trans (by decide)⟩

theorem slti (rd rs1 : RegIdx) (imm : BitVec 12) : Statement (.slti rd rs1 imm) := fun _ =>
  (matches_707F (p := 0x00002013#32) (by decide)).mpr
    ⟨(opcodeField_encodeI _ _ _ _ _).trans (by decide), (funct3Field_encodeI _ _ _ _ _).trans (by decide)⟩

theorem sltiu (rd rs1 : RegIdx) (imm : BitVec 12) : Statement (.sltiu rd rs1 imm) := fun _ =>
  (matches_707F (p := 0x00003013#32) (by decide)).mpr
    ⟨(opcodeField_encodeI _ _ _ _ _).trans (by decide), (funct3Field_encodeI _ _ _ _ _).trans (by decide)⟩

theorem xori (rd rs1 : RegIdx) (imm : BitVec 12) : Statement (.xori rd rs1 imm) := fun _ =>
  (matches_707F (p := 0x00004013#32) (by decide)).mpr
    ⟨(opcodeField_encodeI _ _ _ _ _).trans (by decide), (funct3Field_encodeI _ _ _ _ _).trans (by decide)⟩

theorem ori (rd rs1 : RegIdx) (imm : BitVec 12) : Statement (.ori rd rs1 imm) := fun _ =>
  (matches_707F (p := 0x00006013#32) (by decide)).mpr
    ⟨(opcodeField_encodeI _ _ _ _ _).trans (by decide), (funct3Field_encodeI _ _ _ _ _).trans (by decide)⟩

theorem andi (rd rs1 : RegIdx) (imm : BitVec 12) : Statement (.andi rd rs1 imm) := fun _ =>
  (matches_707F (p := 0x00007013#32) (by decide)).mpr
    ⟨(opcodeField_encodeI _ _ _ _ _).trans (by decide), (funct3Field_encodeI _ _ _ _ _).trans (by decide)⟩

theorem slli (rd rs1 : RegIdx) (imm : BitVec 12) : Statement (.slli rd rs1 imm) := fun h =>
  (matches_FE00707F (p := 0x00001013#32) (by decide)).mpr
    ⟨(opcodeField_encodeI _ _ _ _ _).trans (by decide), (funct3Field_encodeI _ _ _ _ _).trans (by decide),
      ((funct7Field_encodeI _ _ _ _ _).trans (beq_iff_eq.mp h)).trans (by decide)⟩

theorem srli (rd rs1 : RegIdx) (imm : BitVec 12) : Statement (.srli rd rs1 imm) := fun h =>
  (matches_FE00707F (p := 0x00005013#32) (by decide)).mpr
    ⟨(opcodeField_encodeI _ _ _ _ _).trans (by decide), (funct3Field_encodeI _ _ _ _ _).trans (by decide),
      ((funct7Field_encodeI _ _ _ _ _).trans (beq_iff_eq.mp h)).trans (by decide)⟩

theorem srai (rd rs1 : RegIdx) (imm : BitVec 12) : Statement (.srai rd rs1 imm) := fun h =>
  (matches_FE00707F (p := 0x40005013#32) (by decide)).mpr
    ⟨(opcodeField_encodeI _ _ _ _ _).trans (by decide), (funct3Field_encodeI _ _ _ _ _).trans (by decide),
      ((funct7Field_encodeI _ _ _ _ _).trans (beq_iff_eq.mp h)).trans (by decide)⟩

theorem add (rd rs1 rs2 : RegIdx) : Statement (.add rd rs1 rs2) := fun _ =>
  (matches_FE00707F (p := 0x00000033#32) (by decide)).mpr
    ⟨(opcodeField_encodeR _ _ _ _ _ _).trans (by decide), (funct3Field_encodeR _ _ _ _ _ _).trans (by decide),
      (funct7Field_encodeR _ _ _ _ _ _).trans (by decide)⟩

theorem sub (rd rs1 rs2 : RegIdx) : Statement (.sub rd rs1 rs2) := fun _ =>
  (matches_FE00707F (p := 0x40000033#32) (by decide)).mpr
    ⟨(opcodeField_encodeR _ _ _ _ _ _).trans (by decide), (funct3Field_encodeR _ _ _ _ _ _).trans (by decide),
      (funct7Field_encodeR _ _ _ _ _ _).trans (by decide)⟩

theorem sll (rd rs1 rs2 : RegIdx) : Statement (.sll rd rs1 rs2) := fun _ =>
  (matches_FE00707F (p := 0x00001033#32) (by decide)).mpr
    ⟨(opcodeField_encodeR _ _ _ _ _ _).trans (by decide), (funct3Field_encodeR _ _ _ _ _ _).trans (by decide),
      (funct7Field_encodeR _ _ _ _ _ _).trans (by decide)⟩

theorem slt (rd rs1 rs2 : RegIdx) : Statement (.slt rd rs1 rs2) := fun _ =>
  (matches_FE00707F (p := 0x00002033#32) (by decide)).mpr
    ⟨(opcodeField_encodeR _ _ _ _ _ _).trans (by decide), (funct3Field_encodeR _ _ _ _ _ _).trans (by decide),
      (funct7Field_encodeR _ _ _ _ _ _).trans (by decide)⟩

theorem sltu (rd rs1 rs2 : RegIdx) : Statement (.sltu rd rs1 rs2) := fun _ =>
  (matches_FE00707F (p := 0x00003033#32) (by decide)).mpr
    ⟨(opcodeField_encodeR _ _ _ _ _ _).trans (by decide), (funct3Field_encodeR _ _ _ _ _ _).trans (by decide),
      (funct7Field_encodeR _ _ _ _ _ _).trans (by decide)⟩

theorem xor (rd rs1 rs2 : RegIdx) : Statement (.xor rd rs1 rs2) := fun _ =>
  (matches_FE00707F (p := 0x00004033#32) (by decide)).mpr
    ⟨(opcodeField_encodeR _ _ _ _ _ _).trans (by decide), (funct3Field_encodeR _ _ _ _ _ _).trans (by decide),
      (funct7Field_encodeR _ _ _ _ _ _).trans (by decide)⟩

theorem srl (rd rs1 rs2 : RegIdx) : Statement (.srl rd rs1 rs2) := fun _ =>
  (matches_FE00707F (p := 0x00005033#32) (by decide)).mpr
    ⟨(opcodeField_encodeR _ _ _ _ _ _).trans (by decide), (funct3Field_encodeR _ _ _ _ _ _).trans (by decide),
      (funct7Field_encodeR _ _ _ _ _ _).trans (by decide)⟩

theorem sra (rd rs1 rs2 : RegIdx) : Statement (.sra rd rs1 rs2) := fun _ =>
  (matches_FE00707F (p := 0x40005033#32) (by decide)).mpr
    ⟨(opcodeField_encodeR _ _ _ _ _ _).trans (by decide), (funct3Field_encodeR _ _ _ _ _ _).trans (by decide),
      (funct7Field_encodeR _ _ _ _ _ _).trans (by decide)⟩

theorem or (rd rs1 rs2 : RegIdx) : Statement (.or rd rs1 rs2) := fun _ =>
  (matches_FE00707F (p := 0x00006033#32) (by decide)).mpr
    ⟨(opcodeField_encodeR _ _ _ _ _ _).trans (by decide), (funct3Field_encodeR _ _ _ _ _ _).trans (by decide),
      (funct7Field_encodeR _ _ _ _ _ _).trans (by decide)⟩

theorem and (rd rs1 rs2 : RegIdx) : Statement (.and rd rs1 rs2) := fun _ =>
  (matches_FE00707F (p := 0x00007033#32) (by decide)).mpr
    ⟨(opcodeField_encodeR _ _ _ _ _ _).trans (by decide), (funct3Field_encodeR _ _ _ _ _ _).trans (by decide),
      (funct7Field_encodeR _ _ _ _ _ _).trans (by decide)⟩

theorem fence (rd rs1 : RegIdx) (imm : BitVec 12) : Statement (.fence rd rs1 imm) := fun _ =>
  (matches_707F (p := 0x0000000F#32) (by decide)).mpr
    ⟨(opcodeField_encodeI _ _ _ _ _).trans (by decide), (funct3Field_encodeI _ _ _ _ _).trans (by decide)⟩

theorem fenceI (rd rs1 : RegIdx) (imm : BitVec 12) : Statement (.fenceI rd rs1 imm) := fun _ =>
  (matches_707F (p := 0x0000100F#32) (by decide)).mpr
    ⟨(opcodeField_encodeI _ _ _ _ _).trans (by decide), (funct3Field_encodeI _ _ _ _ _).trans (by decide)⟩

theorem ecall : Statement .ecall := fun _ => (by decide : 0x00000073#32 &&& 0xFFFFFFFF#32 = 0x00000073#32)

theorem ebreak : Statement .ebreak := fun _ => (by decide : 0x00100073#32 &&& 0xFFFFFFFF#32 = 0x00100073#32)

end Sys2Proof.Laws.TableRow
end

