-- ==== Sys2Proof/Laws/Step.lean ====
section
/-! SUPPORT. What a step finds before it executes, and what it then answers: the inversion lemmas of
`State.front` and `step`. -/

namespace Sys2Proof.Machine

variable {s t : State}

theorem step_of_stopped (h : s.front = .stopped) : step s = .next s := by simp [step, cycle, h]

theorem step_of_ends {c : TermCause} (h : s.front = .ends c) : step s = .next (s.finish c) := by simp [step, cycle, h]

theorem step_of_fails {code : ErrCode} {info : Word} (h : s.front = .fails code info) :
    step s = .next (s.latch code info) := by simp [step, cycle, h, raiseFault]

theorem step_of_runs {i : Instr} (h : s.front = .runs i) : step s = exec i s := by simp [step, cycle, h]

theorem frontOfWord_runs {w : Word} {i : Instr} : frontOfWord w = .runs i ↔ decode w = .ok i := by
  unfold frontOfWord
  split <;> simp_all

/-- The front of a step, case by case. -/
theorem front_cases (s : State) :
    (s.front = .stopped ∧ (s.fault.code ≠ .ok ∨ s.terminated = true)) ∨
    (s.fault.code = .ok ∧ s.terminated = false ∧
      ((s.front = .ends .sentinel ∧ s.pc = s.params.haltSentinel) ∨
       (s.front = .ends .hostAbort ∧ s.pc ≠ s.params.haltSentinel ∧ s.pcExecutable = false) ∨
       (s.pc ≠ s.params.haltSentinel ∧ s.pcExecutable = true ∧
        ((s.front = .fails .memOob s.pc ∧ s.fetch = none) ∨
         ∃ w, s.fetch = some w ∧
          ((s.front = .fails .decodeOpcode w ∧ decode w = .error .opcode) ∨
           (s.front = .fails .decodeSubselect w ∧ decode w = .error .subselect) ∨
           ∃ i, s.front = .runs i ∧ decode w = .ok i))))) := by
  unfold State.front
  by_cases h1 : s.fault.code = .ok
  swap
  · simp [h1]
  by_cases h2 : s.terminated = true
  · simp [h1, h2]
  by_cases h3 : s.pc = s.params.haltSentinel
  · simp [h1, h2, h3]
  cases h4 : s.pcExecutable
  · simp [h1, h2, h3]
  · cases h5 : s.fetch with
    | none => simp [h1, h2, h3]
    | some w =>
      simp only [h1, h2, h3, frontOfWord]
      rcases h6 : decode w with (_ | _) | i <;> simp <;> exact ⟨h3, h6⟩

/-- Everything a step can do. -/
theorem step_cases (h : step s = .next t) :
    (t = s ∧ (s.fault.code ≠ .ok ∨ s.terminated = true)) ∨
    (s.fault.code = .ok ∧ s.terminated = false ∧
      ((t = s.finish .sentinel ∧ s.pc = s.params.haltSentinel) ∨
       (t = s.finish .hostAbort ∧ s.pc ≠ s.params.haltSentinel ∧ s.pcExecutable = false) ∨
       (t = s.latch .memOob s.pc ∧ s.fetch = none) ∨
       (∃ w, t = s.latch .decodeOpcode w ∧ s.fetch = some w ∧ decode w = .error .opcode) ∨
       (∃ w, t = s.latch .decodeSubselect w ∧ s.fetch = some w ∧ decode w = .error .subselect) ∨
       ∃ w i, s.fetch = some w ∧ decode w = .ok i ∧ exec i s = .next t ∧ Effect s t)) := by
  rcases front_cases s with ⟨hf, hs⟩ | ⟨h1, h2, ⟨hf, hp⟩ | ⟨hf, hp⟩ | ⟨-, -, ⟨hf, hn⟩ | ⟨w, hw, ⟨hf, hd⟩ | ⟨hf, hd⟩ | ⟨i, hf, hd⟩⟩⟩⟩
  · rw [step_of_stopped hf] at h
    cases h
    exact .inl ⟨rfl, hs⟩
  · rw [step_of_ends hf] at h
    cases h
    exact .inr ⟨h1, h2, .inl ⟨rfl, hp⟩⟩
  · rw [step_of_ends hf] at h
    cases h
    exact .inr ⟨h1, h2, .inr (.inl ⟨rfl, hp⟩)⟩
  · rw [step_of_fails hf] at h
    cases h
    exact .inr ⟨h1, h2, .inr (.inr (.inl ⟨rfl, hn⟩))⟩
  · rw [step_of_fails hf] at h
    cases h
    exact .inr ⟨h1, h2, .inr (.inr (.inr (.inl ⟨w, rfl, hw, hd⟩)))⟩
  · rw [step_of_fails hf] at h
    cases h
    exact .inr ⟨h1, h2, .inr (.inr (.inr (.inr (.inl ⟨w, rfl, hw, hd⟩))))⟩
  · rw [step_of_runs hf] at h
    exact .inr ⟨h1, h2, .inr (.inr (.inr (.inr (.inr ⟨w, i, hw, hd, h, exec_effect h⟩))))⟩

end Sys2Proof.Machine
end

