-- ==== Sys2Proof/Tests/Slice0.lean ====
section
/-! SUPPORT. The model's own tests: one word of every instruction written out field by field in the order of its
layout (`spec/30_encoding.md` rules R52 to R74, values of `spec/95_test_vectors.md`), the decode errors, the checks
of well-formedness, one step on the states of `spec/96_execution_vectors.md` (each expected state is that file's), and
a witness for every statement that has hypotheses. -/

namespace Sys2Proof.Machine.Tests

/-- The state a step answers, none for a fault or a refusal. -/
def after : Result → Option State
  | .next t => some t
  | _ => none

/-- A hand-made state as `spec/96_execution_vectors.md` describes it: the word `w` mapped at `home`, `pc`, the
listed registers, every other register 0 (`x[1]` and `x[2]` too), the listed bytes of memory. -/
def st (home w pc : Word) (regs : List (RegIdx × Word)) (mem : List (Nat × List Byte) := []) : State :=
  let s := { State.resetWith Params.scratch with
    pc := pc
    execRanges := [⟨home.toNat, home.toNat + 4⟩]
    mem := mem.foldl (fun m c => m.writeBytes c.1 c.2) (Memory.writeBytes [] home.toNat (bytesOfWord w)) }
  regs.foldl (fun s r => s.writeReg r.1 r.2) s

/-- The one step from such a state. -/
def run1 (s : State) : Option State := after (step s)

/-! ## Well-formedness: an ill-formed term for each check -/

theorem test_wf_refuses_jal : Instr.wf (.jal 1#5 1#21) = false := by decide
theorem test_wf_refuses_beq : Instr.wf (.beq 1#5 2#5 3#13) = false := by decide
theorem test_wf_refuses_bne : Instr.wf (.bne 1#5 2#5 1#13) = false := by decide
theorem test_wf_refuses_blt : Instr.wf (.blt 1#5 2#5 1#13) = false := by decide
theorem test_wf_refuses_bge : Instr.wf (.bge 1#5 2#5 0x1FFF#13) = false := by decide
theorem test_wf_refuses_bltu : Instr.wf (.bltu 1#5 2#5 1#13) = false := by decide
theorem test_wf_refuses_bgeu : Instr.wf (.bgeu 1#5 2#5 5#13) = false := by decide
theorem test_wf_refuses_slli : Instr.wf (.slli 1#5 2#5 0x020#12) = false := by decide
theorem test_wf_refuses_srli : Instr.wf (.srli 1#5 2#5 0x400#12) = false := by decide
theorem test_wf_refuses_srai : Instr.wf (.srai 1#5 2#5 0x01F#12) = false := by decide

theorem test_wf_accepts_boundaries : Instr.wf (.jal 1#5 0x100000#21) = true ∧ Instr.wf (.bgeu 0#5 31#5 0x1FFE#13) = true ∧
    Instr.wf (.slli 1#5 2#5 31#12) = true ∧ Instr.wf (.srai 1#5 2#5 0x41F#12) = true := by decide

/-! ## Decoding: the word of each instruction -/

/-- DV3: `lui x5, 0xABCDE`. -/
theorem test_decode_lui : (0b10101011110011011110#20 ++ 0b00101#5 ++ 0b0110111#7 : Word) = 0xABCDE2B7#32 ∧
    decode 0xABCDE2B7#32 = .ok (.lui 5#5 0xABCDE#20) := by decide

/-- DV4: `auipc x10, 0xFFFFF`. -/
theorem test_decode_auipc : (0b11111111111111111111#20 ++ 0b01010#5 ++ 0b0010111#7 : Word) = 0xFFFFF517#32 ∧
    decode 0xFFFFF517#32 = .ok (.auipc 10#5 0xFFFFF#20) := by decide

/-- DV6: `jal x0, -16`. -/
theorem test_decode_jal : (0b1#1 ++ 0b1111111000#10 ++ 0b1#1 ++ 0b11111111#8 ++ 0b00000#5 ++ 0b1101111#7 : Word) = 0xFF1FF06F#32 ∧
    decode 0xFF1FF06F#32 = .ok (.jal 0#5 0x1FFFF0#21) := by decide

/-- DV11: `jalr x1, -2048(x6)`. -/
theorem test_decode_jalr : (0b100000000000#12 ++ 0b00110#5 ++ 0b000#3 ++ 0b00001#5 ++ 0b1100111#7 : Word) = 0x800300E7#32 ∧
    decode 0x800300E7#32 = .ok (.jalr 1#5 6#5 0x800#12) := by decide

/-- DV12: `beq x5, x6, 4092`. -/
theorem test_decode_beq : (0b0#1 ++ 0b111111#6 ++ 0b00110#5 ++ 0b00101#5 ++ 0b000#3 ++ 0b1110#4 ++ 0b1#1 ++ 0b1100011#7 : Word) = 0x7E628EE3#32 ∧
    decode 0x7E628EE3#32 = .ok (.beq 5#5 6#5 0x0FFC#13) := by decide

/-- DV13: `bne x5, x6, -4096`. -/
theorem test_decode_bne : (0b1#1 ++ 0b000000#6 ++ 0b00110#5 ++ 0b00101#5 ++ 0b001#3 ++ 0b0000#4 ++ 0b0#1 ++ 0b1100011#7 : Word) = 0x80629063#32 ∧
    decode 0x80629063#32 = .ok (.bne 5#5 6#5 0x1000#13) := by decide

/-- DV14: `blt x5, x6, 2048`. -/
theorem test_decode_blt : (0b0#1 ++ 0b000000#6 ++ 0b00110#5 ++ 0b00101#5 ++ 0b100#3 ++ 0b0000#4 ++ 0b1#1 ++ 0b1100011#7 : Word) = 0x0062C0E3#32 ∧
    decode 0x0062C0E3#32 = .ok (.blt 5#5 6#5 0x0800#13) := by decide

/-- DV15: `bge x5, x6, -2`. -/
theorem test_decode_bge : (0b1#1 ++ 0b111111#6 ++ 0b00110#5 ++ 0b00101#5 ++ 0b101#3 ++ 0b1111#4 ++ 0b1#1 ++ 0b1100011#7 : Word) = 0xFE62DFE3#32 ∧
    decode 0xFE62DFE3#32 = .ok (.bge 5#5 6#5 0x1FFE#13) := by decide

/-- DV16: `bltu x31, x0, 16`. -/
theorem test_decode_bltu : (0b0#1 ++ 0b000000#6 ++ 0b00000#5 ++ 0b11111#5 ++ 0b110#3 ++ 0b1000#4 ++ 0b0#1 ++ 0b1100011#7 : Word) = 0x000FE863#32 ∧
    decode 0x000FE863#32 = .ok (.bltu 31#5 0#5 0x0010#13) := by decide

/-- DV17: `bgeu x1, x2, 30`. -/
theorem test_decode_bgeu : (0b0#1 ++ 0b000000#6 ++ 0b00010#5 ++ 0b00001#5 ++ 0b111#3 ++ 0b1111#4 ++ 0b0#1 ++ 0b1100011#7 : Word) = 0x0020FF63#32 ∧
    decode 0x0020FF63#32 = .ok (.bgeu 1#5 2#5 0x001E#13) := by decide

/-- DV18: `lb x5, 0(x6)`. -/
theorem test_decode_lb : (0b000000000000#12 ++ 0b00110#5 ++ 0b000#3 ++ 0b00101#5 ++ 0b0000011#7 : Word) = 0x00030283#32 ∧
    decode 0x00030283#32 = .ok (.lb 5#5 6#5 0x000#12) := by decide

/-- DV19: `lh x5, -1(x6)`. -/
theorem test_decode_lh : (0b111111111111#12 ++ 0b00110#5 ++ 0b001#3 ++ 0b00101#5 ++ 0b0000011#7 : Word) = 0xFFF31283#32 ∧
    decode 0xFFF31283#32 = .ok (.lh 5#5 6#5 0xFFF#12) := by decide

/-- DV20: `lw x5, 2047(x6)`. -/
theorem test_decode_lw : (0b011111111111#12 ++ 0b00110#5 ++ 0b010#3 ++ 0b00101#5 ++ 0b0000011#7 : Word) = 0x7FF32283#32 ∧
    decode 0x7FF32283#32 = .ok (.lw 5#5 6#5 0x7FF#12) := by decide

/-- DV21: `lbu x5, -2048(x6)`. -/
theorem test_decode_lbu : (0b100000000000#12 ++ 0b00110#5 ++ 0b100#3 ++ 0b00101#5 ++ 0b0000011#7 : Word) = 0x80034283#32 ∧
    decode 0x80034283#32 = .ok (.lbu 5#5 6#5 0x800#12) := by decide

/-- DV22: `lhu x5, 6(x6)`. -/
theorem test_decode_lhu : (0b000000000110#12 ++ 0b00110#5 ++ 0b101#3 ++ 0b00101#5 ++ 0b0000011#7 : Word) = 0x00635283#32 ∧
    decode 0x00635283#32 = .ok (.lhu 5#5 6#5 0x006#12) := by decide

/-- DV23: `sb x7, 0(x6)`. -/
theorem test_decode_sb : (0b0000000#7 ++ 0b00111#5 ++ 0b00110#5 ++ 0b000#3 ++ 0b00000#5 ++ 0b0100011#7 : Word) = 0x00730023#32 ∧
    decode 0x00730023#32 = .ok (.sb 6#5 7#5 0x000#12) := by decide

/-- DV24: `sh x7, -1(x6)`. -/
theorem test_decode_sh : (0b1111111#7 ++ 0b00111#5 ++ 0b00110#5 ++ 0b001#3 ++ 0b11111#5 ++ 0b0100011#7 : Word) = 0xFE731FA3#32 ∧
    decode 0xFE731FA3#32 = .ok (.sh 6#5 7#5 0xFFF#12) := by decide

/-- DV26: `sw x7, -2048(x6)`. -/
theorem test_decode_sw : (0b1000000#7 ++ 0b00111#5 ++ 0b00110#5 ++ 0b010#3 ++ 0b00000#5 ++ 0b0100011#7 : Word) = 0x80732023#32 ∧
    decode 0x80732023#32 = .ok (.sw 6#5 7#5 0x800#12) := by decide

/-- DV28: `addi x5, x6, -1`. -/
theorem test_decode_addi : (0b111111111111#12 ++ 0b00110#5 ++ 0b000#3 ++ 0b00101#5 ++ 0b0010011#7 : Word) = 0xFFF30293#32 ∧
    decode 0xFFF30293#32 = .ok (.addi 5#5 6#5 0xFFF#12) := by decide

/-- DV29: `slti x5, x6, -2048`. -/
theorem test_decode_slti : (0b100000000000#12 ++ 0b00110#5 ++ 0b010#3 ++ 0b00101#5 ++ 0b0010011#7 : Word) = 0x80032293#32 ∧
    decode 0x80032293#32 = .ok (.slti 5#5 6#5 0x800#12) := by decide

/-- DV30: `sltiu x5, x6, 1`. -/
theorem test_decode_sltiu : (0b000000000001#12 ++ 0b00110#5 ++ 0b011#3 ++ 0b00101#5 ++ 0b0010011#7 : Word) = 0x00133293#32 ∧
    decode 0x00133293#32 = .ok (.sltiu 5#5 6#5 0x001#12) := by decide

/-- DV31: `xori x5, x6, -1`. -/
theorem test_decode_xori : (0b111111111111#12 ++ 0b00110#5 ++ 0b100#3 ++ 0b00101#5 ++ 0b0010011#7 : Word) = 0xFFF34293#32 ∧
    decode 0xFFF34293#32 = .ok (.xori 5#5 6#5 0xFFF#12) := by decide

/-- DV32: `ori x5, x6, 0x555`. -/
theorem test_decode_ori : (0b010101010101#12 ++ 0b00110#5 ++ 0b110#3 ++ 0b00101#5 ++ 0b0010011#7 : Word) = 0x55536293#32 ∧
    decode 0x55536293#32 = .ok (.ori 5#5 6#5 0x555#12) := by decide

/-- DV33: `andi x5, x6, 0xF0`. -/
theorem test_decode_andi : (0b000011110000#12 ++ 0b00110#5 ++ 0b111#3 ++ 0b00101#5 ++ 0b0010011#7 : Word) = 0x0F037293#32 ∧
    decode 0x0F037293#32 = .ok (.andi 5#5 6#5 0x0F0#12) := by decide

/-- DV34: `slli x5, x6, 31`. -/
theorem test_decode_slli : (0b000000011111#12 ++ 0b00110#5 ++ 0b001#3 ++ 0b00101#5 ++ 0b0010011#7 : Word) = 0x01F31293#32 ∧
    decode 0x01F31293#32 = .ok (.slli 5#5 6#5 0x01F#12) := by decide

/-- DV35: `srli x5, x6, 1`. -/
theorem test_decode_srli : (0b000000000001#12 ++ 0b00110#5 ++ 0b101#3 ++ 0b00101#5 ++ 0b0010011#7 : Word) = 0x00135293#32 ∧
    decode 0x00135293#32 = .ok (.srli 5#5 6#5 0x001#12) := by decide

/-- DV36: `srai x5, x6, 31`. -/
theorem test_decode_srai : (0b010000011111#12 ++ 0b00110#5 ++ 0b101#3 ++ 0b00101#5 ++ 0b0010011#7 : Word) = 0x41F35293#32 ∧
    decode 0x41F35293#32 = .ok (.srai 5#5 6#5 0x41F#12) := by decide

/-- DV37: `add x5, x6, x7`. -/
theorem test_decode_add : (0b0000000#7 ++ 0b00111#5 ++ 0b00110#5 ++ 0b000#3 ++ 0b00101#5 ++ 0b0110011#7 : Word) = 0x007302B3#32 ∧
    decode 0x007302B3#32 = .ok (.add 5#5 6#5 7#5) := by decide

/-- DV38: `sub x5, x6, x7`. -/
theorem test_decode_sub : (0b0100000#7 ++ 0b00111#5 ++ 0b00110#5 ++ 0b000#3 ++ 0b00101#5 ++ 0b0110011#7 : Word) = 0x407302B3#32 ∧
    decode 0x407302B3#32 = .ok (.sub 5#5 6#5 7#5) := by decide

/-- DV39: `sll x5, x6, x7`. -/
theorem test_decode_sll : (0b0000000#7 ++ 0b00111#5 ++ 0b00110#5 ++ 0b001#3 ++ 0b00101#5 ++ 0b0110011#7 : Word) = 0x007312B3#32 ∧
    decode 0x007312B3#32 = .ok (.sll 5#5 6#5 7#5) := by decide

/-- DV40: `slt x5, x6, x7`. -/
theorem test_decode_slt : (0b0000000#7 ++ 0b00111#5 ++ 0b00110#5 ++ 0b010#3 ++ 0b00101#5 ++ 0b0110011#7 : Word) = 0x007322B3#32 ∧
    decode 0x007322B3#32 = .ok (.slt 5#5 6#5 7#5) := by decide

/-- DV41: `sltu x5, x6, x7`. -/
theorem test_decode_sltu : (0b0000000#7 ++ 0b00111#5 ++ 0b00110#5 ++ 0b011#3 ++ 0b00101#5 ++ 0b0110011#7 : Word) = 0x007332B3#32 ∧
    decode 0x007332B3#32 = .ok (.sltu 5#5 6#5 7#5) := by decide

/-- DV42: `xor x5, x6, x7`. -/
theorem test_decode_xor : (0b0000000#7 ++ 0b00111#5 ++ 0b00110#5 ++ 0b100#3 ++ 0b00101#5 ++ 0b0110011#7 : Word) = 0x007342B3#32 ∧
    decode 0x007342B3#32 = .ok (.xor 5#5 6#5 7#5) := by decide

/-- DV43: `srl x5, x6, x7`. -/
theorem test_decode_srl : (0b0000000#7 ++ 0b00111#5 ++ 0b00110#5 ++ 0b101#3 ++ 0b00101#5 ++ 0b0110011#7 : Word) = 0x007352B3#32 ∧
    decode 0x007352B3#32 = .ok (.srl 5#5 6#5 7#5) := by decide

/-- DV44: `sra x5, x6, x7`. -/
theorem test_decode_sra : (0b0100000#7 ++ 0b00111#5 ++ 0b00110#5 ++ 0b101#3 ++ 0b00101#5 ++ 0b0110011#7 : Word) = 0x407352B3#32 ∧
    decode 0x407352B3#32 = .ok (.sra 5#5 6#5 7#5) := by decide

/-- DV45: `or x5, x6, x7`. -/
theorem test_decode_or : (0b0000000#7 ++ 0b00111#5 ++ 0b00110#5 ++ 0b110#3 ++ 0b00101#5 ++ 0b0110011#7 : Word) = 0x007362B3#32 ∧
    decode 0x007362B3#32 = .ok (.or 5#5 6#5 7#5) := by decide

/-- DV46: `and x31, x31, x31`. -/
theorem test_decode_and : (0b0000000#7 ++ 0b11111#5 ++ 0b11111#5 ++ 0b111#3 ++ 0b11111#5 ++ 0b0110011#7 : Word) = 0x01FFFFB3#32 ∧
    decode 0x01FFFFB3#32 = .ok (.and 31#5 31#5 31#5) := by decide

/-- DV48: `fence.i`. -/
theorem test_decode_fenceI : (0b000000000000#12 ++ 0b00000#5 ++ 0b001#3 ++ 0b00000#5 ++ 0b0001111#7 : Word) = 0x0000100F#32 ∧
    decode 0x0000100F#32 = .ok (.fenceI 0#5 0#5 0x000#12) := by decide

/-- DV49: `ecall`. -/
theorem test_decode_ecall : (0b000000000000#12 ++ 0b00000#5 ++ 0b000#3 ++ 0b00000#5 ++ 0b1110011#7 : Word) = 0x00000073#32 ∧
    decode 0x00000073#32 = .ok .ecall := by decide

/-- DV50: `ebreak`. -/
theorem test_decode_ebreak : (0b000000000001#12 ++ 0b00000#5 ++ 0b000#3 ++ 0b00000#5 ++ 0b1110011#7 : Word) = 0x00100073#32 ∧
    decode 0x00100073#32 = .ok .ebreak := by decide

/-- DV51: fence.tso (standard name). -/
theorem test_decode_fence : (0b100000110011#12 ++ 0b00000#5 ++ 0b000#3 ++ 0b00000#5 ++ 0b0001111#7 : Word) = 0x8330000F#32 ∧
    decode 0x8330000F#32 = .ok (.fence 0#5 0#5 0x833#12) := by decide

/-- DE1, DE2, DE3: no opcode. -/
theorem test_decode_no_opcode : decode 0x00000000#32 = .error .opcode ∧ decode 0xFFFFFFFF#32 = .error .opcode ∧
    decode 0x00000001#32 = .error .opcode := by decide

/-- DE9, DE13, DE14, DE16, DE17, DE20, DE21, DE24, DE26, DE28, DE34: no mnemonic. -/
theorem test_decode_no_mnemonic :
    [0x00003003#32, 0x00007023#32, 0x00002063#32, 0x00001067#32, 0x02031293#32, 0x42035293#32, 0x027302B3#32, 0x407362B3#32,
      0x0000200F#32, 0x30200073#32, 0x000000F3#32].all (fun w => decode w = .error .subselect) = true := by decide

/-- The table's numbering of bits and the bytes in memory are one: the first byte is the lowest. -/
theorem test_table_word : decodeTableWord 32 0x00100093 = some (.addi 1#5 0#5 1#12) ∧ decodeTableWord 32 0x73 = some .ecall ∧
    decodeTableWord 32 0xFFFFFFFF = none := by decide

/-- A word placed for the next step is what that step runs, from reset: `addi x1, x0, 1`. -/
theorem test_placed_word_runs :
    (run1 (State.reset.withFetchWord 32 0x00100093)).map (fun t => (t.pc, t.readReg 1#5, t.fault.code)) =
      some (4#32, 1#32, .ok) := by decide

/-! ## One step -/

/-- UI1: lui x5, 0xABCDE. -/
theorem test_ui1 :
    run1 (st 0x100#32 0xABCDE2B7#32 0x100#32 []) =
      some (st 0x100#32 0xABCDE2B7#32 0x104#32 [(5#5, 0xABCDE000#32)]) := by decide

/-- UI4: lui x0, 0xFFFFF. -/
theorem test_ui4 :
    run1 (st 0x100#32 0xFFFFF037#32 0x100#32 []) =
      some (st 0x100#32 0xFFFFF037#32 0x104#32 []) := by decide

/-- UI9: auipc x5, 0xFFFFF. -/
theorem test_ui9 :
    run1 (st 0x1000#32 0xFFFFF297#32 0x1000#32 [(5#5, 0x55#32)]) =
      some (st 0x1000#32 0xFFFFF297#32 0x1004#32 [(5#5, 0x55#32), (5#5, 0#32)]) := by decide

/-- UI8: auipc x0, 0x12345. -/
theorem test_ui8 :
    run1 (st 0x100#32 0x12345017#32 0x100#32 []) =
      some (st 0x100#32 0x12345017#32 0x104#32 []) := by decide

/-- JP8: jal x5, -1048576. -/
theorem test_jp8 :
    run1 (st 0x100#32 0x800002EF#32 0x100#32 []) =
      some (st 0x100#32 0x800002EF#32 0xFFF00100#32 [(5#5, 0x104#32)]) := by decide

/-- JP4: jal x1, 2. -/
theorem test_jp4 :
    run1 (st 0x100#32 0x2000EF#32 0x100#32 []) =
      some { (st 0x100#32 0x2000EF#32 0x100#32 [])
        with fault := ⟨.misalignedTarget, 0x102#32⟩ } := by decide

/-- JP17: jalr x5, -4(x5). -/
theorem test_jp17 :
    run1 (st 0x100#32 0xFFC282E7#32 0x100#32 [(5#5, 0x208#32)]) =
      some (st 0x100#32 0xFFC282E7#32 0x204#32 [(5#5, 0x208#32), (5#5, 0x104#32)]) := by decide

/-- JP15: jalr x1, 0(x6). -/
theorem test_jp15 :
    run1 (st 0x100#32 0x300E7#32 0x100#32 [(6#5, 0x203#32)]) =
      some { (st 0x100#32 0x300E7#32 0x100#32 [(6#5, 0x203#32)])
        with fault := ⟨.misalignedTarget, 0x202#32⟩ } := by decide

/-- BR31: beq x0, x0, -4096. -/
theorem test_br31 :
    run1 (st 0x100#32 0x80000063#32 0x100#32 []) =
      some (st 0x100#32 0x80000063#32 0xFFFFF100#32 []) := by decide

/-- BR32: beq x0, x0, 2. -/
theorem test_br32 :
    run1 (st 0x100#32 0x163#32 0x100#32 []) =
      some { (st 0x100#32 0x163#32 0x100#32 [])
        with fault := ⟨.misalignedTarget, 0x102#32⟩ } := by decide

/-- BR27: bne x6, x7, -256. -/
theorem test_br27 :
    run1 (st 0x100#32 0xF07310E3#32 0x100#32 [(6#5, 9#32), (7#5, 8#32)]) =
      some (st 0x100#32 0xF07310E3#32 0#32 [(6#5, 9#32), (7#5, 8#32)]) := by decide

/-- BR33: bne x0, x0, 2. -/
theorem test_br33 :
    run1 (st 0x100#32 0x1163#32 0x100#32 []) =
      some (st 0x100#32 0x1163#32 0x104#32 []) := by decide

/-- BR9: blt x6, x7, 16. -/
theorem test_br9 :
    run1 (st 0x100#32 0x734863#32 0x100#32 [(6#5, 0xFFFFFFFF#32), (7#5, 1#32)]) =
      some (st 0x100#32 0x734863#32 0x110#32 [(6#5, 0xFFFFFFFF#32), (7#5, 1#32)]) := by decide

/-- BR34: blt x6, x7, 6. -/
theorem test_br34 :
    run1 (st 0x100#32 0x734363#32 0x100#32 [(6#5, 1#32), (7#5, 2#32)]) =
      some { (st 0x100#32 0x734363#32 0x100#32 [(6#5, 1#32), (7#5, 2#32)])
        with fault := ⟨.misalignedTarget, 0x106#32⟩ } := by decide

/-- BR13: bge x6, x7, 16. -/
theorem test_br13 :
    run1 (st 0x100#32 0x735863#32 0x100#32 [(6#5, 0xFFFFFFFF#32), (7#5, 1#32)]) =
      some (st 0x100#32 0x735863#32 0x104#32 [(6#5, 0xFFFFFFFF#32), (7#5, 1#32)]) := by decide

/-- BR15: bge x6, x7, 16. -/
theorem test_br15 :
    run1 (st 0x100#32 0x735863#32 0x100#32 [(6#5, 5#32), (7#5, 5#32)]) =
      some (st 0x100#32 0x735863#32 0x110#32 [(6#5, 5#32), (7#5, 5#32)]) := by decide

/-- BR17: bltu x6, x7, 16. -/
theorem test_br17 :
    run1 (st 0x100#32 0x736863#32 0x100#32 [(6#5, 0xFFFFFFFF#32), (7#5, 1#32)]) =
      some (st 0x100#32 0x736863#32 0x104#32 [(6#5, 0xFFFFFFFF#32), (7#5, 1#32)]) := by decide

/-- BR20: bltu x6, x7, 16. -/
theorem test_br20 :
    run1 (st 0x100#32 0x736863#32 0x100#32 [(6#5, 1#32), (7#5, 0xFFFFFFFF#32)]) =
      some (st 0x100#32 0x736863#32 0x110#32 [(6#5, 1#32), (7#5, 0xFFFFFFFF#32)]) := by decide

/-- BR21: bgeu x6, x7, 16. -/
theorem test_br21 :
    run1 (st 0x100#32 0x737863#32 0x100#32 [(6#5, 0xFFFFFFFF#32), (7#5, 1#32)]) =
      some (st 0x100#32 0x737863#32 0x110#32 [(6#5, 0xFFFFFFFF#32), (7#5, 1#32)]) := by decide

/-- BR24: bgeu x6, x7, 16. -/
theorem test_br24 :
    run1 (st 0x100#32 0x737863#32 0x100#32 [(6#5, 1#32), (7#5, 0xFFFFFFFF#32)]) =
      some (st 0x100#32 0x737863#32 0x104#32 [(6#5, 1#32), (7#5, 0xFFFFFFFF#32)]) := by decide

/-- LD1: lb x5, 0(x6). -/
theorem test_ld1 :
    run1 (st 0x100#32 0x30283#32 0x100#32 [(6#5, 0x1000#32)] [(0x1000, [0x80#8, 0xFF#8, 0x7F#8, 0x01#8, 0xF0#8, 0xE1#8, 0xD2#8, 0xC3#8])]) =
      some (st 0x100#32 0x30283#32 0x104#32 [(6#5, 0x1000#32), (5#5, 0xFFFFFF80#32)] [(0x1000, [0x80#8, 0xFF#8, 0x7F#8, 0x01#8, 0xF0#8, 0xE1#8, 0xD2#8, 0xC3#8])]) := by decide

/-- LD24: lb x5, 2047(x6). -/
theorem test_ld24 :
    run1 (st 0x100#32 0x7FF30283#32 0x100#32 [(6#5, 0x802#32)] [(0x1000, [0x80#8, 0xFF#8, 0x7F#8, 0x01#8, 0xF0#8, 0xE1#8, 0xD2#8, 0xC3#8])]) =
      some (st 0x100#32 0x7FF30283#32 0x104#32 [(6#5, 0x802#32), (5#5, 0xFFFFFFFF#32)] [(0x1000, [0x80#8, 0xFF#8, 0x7F#8, 0x01#8, 0xF0#8, 0xE1#8, 0xD2#8, 0xC3#8])]) := by decide

/-- LD10: lh x5, 1(x6). -/
theorem test_ld10 :
    run1 (st 0x100#32 0x131283#32 0x100#32 [(6#5, 0x1000#32)] [(0x1000, [0x80#8, 0xFF#8, 0x7F#8, 0x01#8, 0xF0#8, 0xE1#8, 0xD2#8, 0xC3#8])]) =
      some (st 0x100#32 0x131283#32 0x104#32 [(6#5, 0x1000#32), (5#5, 0x7FFF#32)] [(0x1000, [0x80#8, 0xFF#8, 0x7F#8, 0x01#8, 0xF0#8, 0xE1#8, 0xD2#8, 0xC3#8])]) := by decide

/-- LD17: lh x5, 0(x6). -/
theorem test_ld17 :
    run1 (st 0x100#32 0x31283#32 0x100#32 [(6#5, 0xFFFF#32), (5#5, 0x55#32)]) =
      some { (st 0x100#32 0x31283#32 0x100#32 [(6#5, 0xFFFF#32), (5#5, 0x55#32)])
        with fault := ⟨.memOob, 0xFFFF#32⟩ } := by decide

/-- LD19: lw x5, 1(x6). -/
theorem test_ld19 :
    run1 (st 0x100#32 0x132283#32 0x100#32 [(6#5, 0xFFFFFFFF#32)] [(0x0, [0x11#8, 0x22#8, 0x33#8, 0x44#8])]) =
      some (st 0x100#32 0x132283#32 0x104#32 [(6#5, 0xFFFFFFFF#32), (5#5, 0x44332211#32)] [(0x0, [0x11#8, 0x22#8, 0x33#8, 0x44#8])]) := by decide

/-- LD18: lw x5, 0(x6). -/
theorem test_ld18 :
    run1 (st 0x100#32 0x32283#32 0x100#32 [(6#5, 0xFFFFFFFE#32), (5#5, 0x55#32)]) =
      some { (st 0x100#32 0x32283#32 0x100#32 [(6#5, 0xFFFFFFFE#32), (5#5, 0x55#32)])
        with fault := ⟨.memOob, 0xFFFFFFFE#32⟩ } := by decide

/-- LD13: lbu x5, 0(x6). -/
theorem test_ld13 :
    run1 (st 0x100#32 0x34283#32 0x100#32 [(6#5, 0xFFFF#32)] [(0xFFFF, [0xAB#8])]) =
      some (st 0x100#32 0x34283#32 0x104#32 [(6#5, 0xFFFF#32), (5#5, 0xAB#32)] [(0xFFFF, [0xAB#8])]) := by decide

/-- LD14: lbu x5, 0(x6). -/
theorem test_ld14 :
    run1 (st 0x100#32 0x34283#32 0x100#32 [(6#5, 0x10000#32), (5#5, 0x55#32)]) =
      some { (st 0x100#32 0x34283#32 0x100#32 [(6#5, 0x10000#32), (5#5, 0x55#32)])
        with fault := ⟨.memOob, 0x10000#32⟩ } := by decide

/-- LD11: lhu x5, 3(x6). -/
theorem test_ld11 :
    run1 (st 0x100#32 0x335283#32 0x100#32 [(6#5, 0x1000#32)] [(0x1000, [0x80#8, 0xFF#8, 0x7F#8, 0x01#8, 0xF0#8, 0xE1#8, 0xD2#8, 0xC3#8])]) =
      some (st 0x100#32 0x335283#32 0x104#32 [(6#5, 0x1000#32), (5#5, 0xF001#32)] [(0x1000, [0x80#8, 0xFF#8, 0x7F#8, 0x01#8, 0xF0#8, 0xE1#8, 0xD2#8, 0xC3#8])]) := by decide

/-- LD5: lhu x5, 0(x6). -/
theorem test_ld5 :
    run1 (st 0x100#32 0x35283#32 0x100#32 [(6#5, 0x1000#32)] [(0x1000, [0x80#8, 0xFF#8, 0x7F#8, 0x01#8, 0xF0#8, 0xE1#8, 0xD2#8, 0xC3#8])]) =
      some (st 0x100#32 0x35283#32 0x104#32 [(6#5, 0x1000#32), (5#5, 0xFF80#32)] [(0x1000, [0x80#8, 0xFF#8, 0x7F#8, 0x01#8, 0xF0#8, 0xE1#8, 0xD2#8, 0xC3#8])]) := by decide

/-- ST1: sb x7, 0(x6). -/
theorem test_st1 :
    run1 (st 0x100#32 0x730023#32 0x100#32 [(6#5, 0x1000#32), (7#5, 0xA1B2C3D4#32)] [(0x1000, [0xFF#8, 0xFF#8, 0xFF#8, 0xFF#8, 0xFF#8, 0xFF#8, 0xFF#8, 0xFF#8])]) =
      some (st 0x100#32 0x730023#32 0x104#32 [(6#5, 0x1000#32), (7#5, 0xA1B2C3D4#32)] [(0x1000, [0xFF#8, 0xFF#8, 0xFF#8, 0xFF#8, 0xFF#8, 0xFF#8, 0xFF#8, 0xFF#8]), (0x1000, [0xD4#8])]) := by decide

/-- ST10: sb x7, 0(x6). -/
theorem test_st10 :
    run1 (st 0x100#32 0x730023#32 0x100#32 [(6#5, 0x10000#32), (7#5, 0xA1B2C3D4#32)]) =
      some { (st 0x100#32 0x730023#32 0x100#32 [(6#5, 0x10000#32), (7#5, 0xA1B2C3D4#32)])
        with fault := ⟨.memOob, 0x10000#32⟩ } := by decide

/-- ST5: sh x7, 3(x6). -/
theorem test_st5 :
    run1 (st 0x100#32 0x7311A3#32 0x100#32 [(6#5, 0x1000#32), (7#5, 0xA1B2C3D4#32)] [(0x1000, [0xFF#8, 0xFF#8, 0xFF#8, 0xFF#8, 0xFF#8, 0xFF#8, 0xFF#8, 0xFF#8])]) =
      some (st 0x100#32 0x7311A3#32 0x104#32 [(6#5, 0x1000#32), (7#5, 0xA1B2C3D4#32)] [(0x1000, [0xFF#8, 0xFF#8, 0xFF#8, 0xFF#8, 0xFF#8, 0xFF#8, 0xFF#8, 0xFF#8]), (0x1003, [0xD4#8, 0xC3#8])]) := by decide

/-- ST12: sh x7, 0(x6). -/
theorem test_st12 :
    run1 (st 0x100#32 0x731023#32 0x100#32 [(6#5, 0xFFFFFFFF#32), (7#5, 0xA1B2C3D4#32)]) =
      some { (st 0x100#32 0x731023#32 0x100#32 [(6#5, 0xFFFFFFFF#32), (7#5, 0xA1B2C3D4#32)])
        with fault := ⟨.memOob, 0xFFFFFFFF#32⟩ } := by decide

/-- ST4: sw x7, 1(x6). -/
theorem test_st4 :
    run1 (st 0x100#32 0x7320A3#32 0x100#32 [(6#5, 0x1000#32), (7#5, 0xA1B2C3D4#32)] [(0x1000, [0xFF#8, 0xFF#8, 0xFF#8, 0xFF#8, 0xFF#8, 0xFF#8, 0xFF#8, 0xFF#8])]) =
      some (st 0x100#32 0x7320A3#32 0x104#32 [(6#5, 0x1000#32), (7#5, 0xA1B2C3D4#32)] [(0x1000, [0xFF#8, 0xFF#8, 0xFF#8, 0xFF#8, 0xFF#8, 0xFF#8, 0xFF#8, 0xFF#8]), (0x1001, [0xD4#8, 0xC3#8, 0xB2#8, 0xA1#8])]) := by decide

/-- ST9: sw x7, 0(x6). -/
theorem test_st9 :
    run1 (st 0x100#32 0x732023#32 0x100#32 [(6#5, 0xFFFE#32), (7#5, 0xA1B2C3D4#32)]) =
      some { (st 0x100#32 0x732023#32 0x100#32 [(6#5, 0xFFFE#32), (7#5, 0xA1B2C3D4#32)])
        with fault := ⟨.memOob, 0xFFFE#32⟩ } := by decide

/-- AI2: addi x5, x6, -1. -/
theorem test_ai2 :
    run1 (st 0x100#32 0xFFF30293#32 0x100#32 [(6#5, 0#32)]) =
      some (st 0x100#32 0xFFF30293#32 0x104#32 [(6#5, 0#32), (5#5, 0xFFFFFFFF#32)]) := by decide

/-- AI3: addi x0, x6, 5. -/
theorem test_ai3 :
    run1 (st 0x100#32 0x530013#32 0x100#32 [(6#5, 1#32)]) =
      some (st 0x100#32 0x530013#32 0x104#32 [(6#5, 1#32)]) := by decide

/-- AI8: slti x5, x6, -1. -/
theorem test_ai8 :
    run1 (st 0x100#32 0xFFF32293#32 0x100#32 [(6#5, 0xFFFFFFFF#32), (5#5, 9#32)]) =
      some (st 0x100#32 0xFFF32293#32 0x104#32 [(6#5, 0xFFFFFFFF#32), (5#5, 9#32), (5#5, 0#32)]) := by decide

/-- AI9: slti x5, x6, -2048. -/
theorem test_ai9 :
    run1 (st 0x100#32 0x80032293#32 0x100#32 [(6#5, 0x80000000#32)]) =
      some (st 0x100#32 0x80032293#32 0x104#32 [(6#5, 0x80000000#32), (5#5, 1#32)]) := by decide

/-- AI10: sltiu x5, x6, -1. -/
theorem test_ai10 :
    run1 (st 0x100#32 0xFFF33293#32 0x100#32 [(6#5, 0xFFFFFFFE#32)]) =
      some (st 0x100#32 0xFFF33293#32 0x104#32 [(6#5, 0xFFFFFFFE#32), (5#5, 1#32)]) := by decide

/-- AI13: sltiu x5, x6, 0. -/
theorem test_ai13 :
    run1 (st 0x100#32 0x33293#32 0x100#32 [(6#5, 0#32), (5#5, 9#32)]) =
      some (st 0x100#32 0x33293#32 0x104#32 [(6#5, 0#32), (5#5, 9#32), (5#5, 0#32)]) := by decide

/-- AI15: xori x5, x6, 0x7FF. -/
theorem test_ai15 :
    run1 (st 0x100#32 0x7FF34293#32 0x100#32 [(6#5, 0xFFFFFFFF#32)]) =
      some (st 0x100#32 0x7FF34293#32 0x104#32 [(6#5, 0xFFFFFFFF#32), (5#5, 0xFFFFF800#32)]) := by decide

/-- AI14: xori x5, x6, -1. -/
theorem test_ai14 :
    run1 (st 0x100#32 0xFFF34293#32 0x100#32 [(6#5, 0xF0F0F0F#32)]) =
      some (st 0x100#32 0xFFF34293#32 0x104#32 [(6#5, 0xF0F0F0F#32), (5#5, 0xF0F0F0F0#32)]) := by decide

/-- AI16: ori x5, x6, -2048. -/
theorem test_ai16 :
    run1 (st 0x100#32 0x80036293#32 0x100#32 [(6#5, 1#32)]) =
      some (st 0x100#32 0x80036293#32 0x104#32 [(6#5, 1#32), (5#5, 0xFFFFF801#32)]) := by decide

/-- AI17: ori x5, x6, 0x555. -/
theorem test_ai17 :
    run1 (st 0x100#32 0x55536293#32 0x100#32 [(6#5, 0xAAAAAAAA#32)]) =
      some (st 0x100#32 0x55536293#32 0x104#32 [(6#5, 0xAAAAAAAA#32), (5#5, 0xAAAAAFFF#32)]) := by decide

/-- AI18: andi x5, x6, 0xFF. -/
theorem test_ai18 :
    run1 (st 0x100#32 0xFF37293#32 0x100#32 [(6#5, 0x12345678#32)]) =
      some (st 0x100#32 0xFF37293#32 0x104#32 [(6#5, 0x12345678#32), (5#5, 0x78#32)]) := by decide

/-- AI19: andi x5, x6, -16. -/
theorem test_ai19 :
    run1 (st 0x100#32 0xFF037293#32 0x100#32 [(6#5, 0x12345678#32)]) =
      some (st 0x100#32 0xFF037293#32 0x104#32 [(6#5, 0x12345678#32), (5#5, 0x12345670#32)]) := by decide

/-- AI21: slli x5, x6, 1. -/
theorem test_ai21 :
    run1 (st 0x100#32 0x131293#32 0x100#32 [(6#5, 0x80000001#32)]) =
      some (st 0x100#32 0x131293#32 0x104#32 [(6#5, 0x80000001#32), (5#5, 2#32)]) := by decide

/-- AI22: slli x5, x6, 31. -/
theorem test_ai22 :
    run1 (st 0x100#32 0x1F31293#32 0x100#32 [(6#5, 3#32)]) =
      some (st 0x100#32 0x1F31293#32 0x104#32 [(6#5, 3#32), (5#5, 0x80000000#32)]) := by decide

/-- AI23: srli x5, x6, 4. -/
theorem test_ai23 :
    run1 (st 0x100#32 0x435293#32 0x100#32 [(6#5, 0x80000000#32)]) =
      some (st 0x100#32 0x435293#32 0x104#32 [(6#5, 0x80000000#32), (5#5, 0x8000000#32)]) := by decide

/-- AI24: srli x5, x6, 31. -/
theorem test_ai24 :
    run1 (st 0x100#32 0x1F35293#32 0x100#32 [(6#5, 0x80000000#32)]) =
      some (st 0x100#32 0x1F35293#32 0x104#32 [(6#5, 0x80000000#32), (5#5, 1#32)]) := by decide

/-- AI26: srai x5, x6, 4. -/
theorem test_ai26 :
    run1 (st 0x100#32 0x40435293#32 0x100#32 [(6#5, 0x80000000#32)]) =
      some (st 0x100#32 0x40435293#32 0x104#32 [(6#5, 0x80000000#32), (5#5, 0xF8000000#32)]) := by decide

/-- AI28: srai x5, x6, 31. -/
theorem test_ai28 :
    run1 (st 0x100#32 0x41F35293#32 0x100#32 [(6#5, 0x7FFFFFFF#32), (5#5, 9#32)]) =
      some (st 0x100#32 0x41F35293#32 0x104#32 [(6#5, 0x7FFFFFFF#32), (5#5, 9#32), (5#5, 0#32)]) := by decide

/-- AR1: add x5, x6, x7. -/
theorem test_ar1 :
    run1 (st 0x100#32 0x7302B3#32 0x100#32 [(6#5, 0xFFFFFFFF#32), (7#5, 1#32), (5#5, 9#32)]) =
      some (st 0x100#32 0x7302B3#32 0x104#32 [(6#5, 0xFFFFFFFF#32), (7#5, 1#32), (5#5, 9#32), (5#5, 0#32)]) := by decide

/-- AR4: add x5, x5, x5. -/
theorem test_ar4 :
    run1 (st 0x100#32 0x5282B3#32 0x100#32 [(5#5, 0x40000001#32)]) =
      some (st 0x100#32 0x5282B3#32 0x104#32 [(5#5, 0x40000001#32), (5#5, 0x80000002#32)]) := by decide

/-- AR6: sub x5, x6, x7. -/
theorem test_ar6 :
    run1 (st 0x100#32 0x407302B3#32 0x100#32 [(6#5, 0x80000000#32), (7#5, 1#32)]) =
      some (st 0x100#32 0x407302B3#32 0x104#32 [(6#5, 0x80000000#32), (7#5, 1#32), (5#5, 0x7FFFFFFF#32)]) := by decide

/-- AR8: sub x5, x0, x7. -/
theorem test_ar8 :
    run1 (st 0x100#32 0x407002B3#32 0x100#32 [(7#5, 0x80000000#32)]) =
      some (st 0x100#32 0x407002B3#32 0x104#32 [(7#5, 0x80000000#32), (5#5, 0x80000000#32)]) := by decide

/-- AR10: sll x5, x6, x7. -/
theorem test_ar10 :
    run1 (st 0x100#32 0x7312B3#32 0x100#32 [(6#5, 1#32), (7#5, 0x20#32)]) =
      some (st 0x100#32 0x7312B3#32 0x104#32 [(6#5, 1#32), (7#5, 0x20#32), (5#5, 1#32)]) := by decide

/-- AR12: sll x5, x6, x7. -/
theorem test_ar12 :
    run1 (st 0x100#32 0x7312B3#32 0x100#32 [(6#5, 0xFFFFFFFF#32), (7#5, 0x24#32)]) =
      some (st 0x100#32 0x7312B3#32 0x104#32 [(6#5, 0xFFFFFFFF#32), (7#5, 0x24#32), (5#5, 0xFFFFFFF0#32)]) := by decide

/-- AR14: slt x5, x6, x7. -/
theorem test_ar14 :
    run1 (st 0x100#32 0x7322B3#32 0x100#32 [(6#5, 0x7FFFFFFF#32), (7#5, 0x80000000#32), (5#5, 9#32)]) =
      some (st 0x100#32 0x7322B3#32 0x104#32 [(6#5, 0x7FFFFFFF#32), (7#5, 0x80000000#32), (5#5, 9#32), (5#5, 0#32)]) := by decide

/-- AR13: slt x5, x6, x7. -/
theorem test_ar13 :
    run1 (st 0x100#32 0x7322B3#32 0x100#32 [(6#5, 0xFFFFFFFF#32), (7#5, 1#32)]) =
      some (st 0x100#32 0x7322B3#32 0x104#32 [(6#5, 0xFFFFFFFF#32), (7#5, 1#32), (5#5, 1#32)]) := by decide

/-- AR18: sltu x5, x6, x7. -/
theorem test_ar18 :
    run1 (st 0x100#32 0x7332B3#32 0x100#32 [(6#5, 1#32), (7#5, 0xFFFFFFFF#32)]) =
      some (st 0x100#32 0x7332B3#32 0x104#32 [(6#5, 1#32), (7#5, 0xFFFFFFFF#32), (5#5, 1#32)]) := by decide

/-- AR17: sltu x5, x6, x7. -/
theorem test_ar17 :
    run1 (st 0x100#32 0x7332B3#32 0x100#32 [(6#5, 0xFFFFFFFF#32), (7#5, 1#32), (5#5, 9#32)]) =
      some (st 0x100#32 0x7332B3#32 0x104#32 [(6#5, 0xFFFFFFFF#32), (7#5, 1#32), (5#5, 9#32), (5#5, 0#32)]) := by decide

/-- AR21: xor x5, x6, x7. -/
theorem test_ar21 :
    run1 (st 0x100#32 0x7342B3#32 0x100#32 [(6#5, 0xFF00FF00#32), (7#5, 0xFF00FF0#32)]) =
      some (st 0x100#32 0x7342B3#32 0x104#32 [(6#5, 0xFF00FF00#32), (7#5, 0xFF00FF0#32), (5#5, 0xF0F0F0F0#32)]) := by decide

/-- AR24: srl x5, x6, x7. -/
theorem test_ar24 :
    run1 (st 0x100#32 0x7352B3#32 0x100#32 [(6#5, 0x80000000#32), (7#5, 0x3F#32)]) =
      some (st 0x100#32 0x7352B3#32 0x104#32 [(6#5, 0x80000000#32), (7#5, 0x3F#32), (5#5, 1#32)]) := by decide

/-- AR25: srl x5, x6, x7. -/
theorem test_ar25 :
    run1 (st 0x100#32 0x7352B3#32 0x100#32 [(6#5, 0x80000000#32), (7#5, 0x20#32)]) =
      some (st 0x100#32 0x7352B3#32 0x104#32 [(6#5, 0x80000000#32), (7#5, 0x20#32), (5#5, 0x80000000#32)]) := by decide

/-- AR27: sra x5, x6, x7. -/
theorem test_ar27 :
    run1 (st 0x100#32 0x407352B3#32 0x100#32 [(6#5, 0x80000000#32), (7#5, 0x3F#32)]) =
      some (st 0x100#32 0x407352B3#32 0x104#32 [(6#5, 0x80000000#32), (7#5, 0x3F#32), (5#5, 0xFFFFFFFF#32)]) := by decide

/-- AR29: sra x5, x6, x7. -/
theorem test_ar29 :
    run1 (st 0x100#32 0x407352B3#32 0x100#32 [(6#5, 0xFFFFFFF0#32), (7#5, 0x100#32)]) =
      some (st 0x100#32 0x407352B3#32 0x104#32 [(6#5, 0xFFFFFFF0#32), (7#5, 0x100#32), (5#5, 0xFFFFFFF0#32)]) := by decide

/-- AR30: or x5, x6, x7. -/
theorem test_ar30 :
    run1 (st 0x100#32 0x7362B3#32 0x100#32 [(6#5, 0xFF00FF00#32), (7#5, 0xFF00FF0#32)]) =
      some (st 0x100#32 0x7362B3#32 0x104#32 [(6#5, 0xFF00FF00#32), (7#5, 0xFF00FF0#32), (5#5, 0xFFF0FFF0#32)]) := by decide

/-- AR32: and x5, x6, x7. -/
theorem test_ar32 :
    run1 (st 0x100#32 0x7372B3#32 0x100#32 [(6#5, 0xFF00FF00#32), (7#5, 0xFF00FF0#32)]) =
      some (st 0x100#32 0x7372B3#32 0x104#32 [(6#5, 0xFF00FF00#32), (7#5, 0xFF00FF0#32), (5#5, 0xF000F00#32)]) := by decide

/-- FE4: (word). -/
theorem test_fe4 :
    run1 (st 0x100#32 0xFFFF8F8F#32 0x100#32 [(31#5, 0x12345678#32)]) =
      some (st 0x100#32 0xFFFF8F8F#32 0x104#32 [(31#5, 0x12345678#32)]) := by decide

/-- FE3: (word). -/
theorem test_fe3 :
    run1 (st 0x100#32 0x8330000F#32 0x100#32 [(5#5, 0x12345678#32)]) =
      some (st 0x100#32 0x8330000F#32 0x104#32 [(5#5, 0x12345678#32)]) := by decide

/-- FE5: (word). -/
theorem test_fe5 :
    run1 (st 0x100#32 0xFFFF9F8F#32 0x100#32 [(31#5, 0x12345678#32)]) =
      some (st 0x100#32 0xFFFF9F8F#32 0x104#32 [(31#5, 0x12345678#32)]) := by decide

/-- SY1: ebreak. -/
theorem test_sy1 :
    run1 (st 0x120#32 0x100073#32 0x120#32 [(10#5, 0x1C8CFC00#32)]) =
      some { (st 0x120#32 0x100073#32 0x124#32 [(10#5, 0x1C8CFC00#32)])
        with terminated := true, termCause := .ebreak } := by decide

/-- SP3: (word). -/
theorem test_sp3 :
    run1 (st 0x100#32 0#32 0x100#32 []) =
      some { (st 0x100#32 0#32 0x100#32 [])
        with fault := ⟨.decodeOpcode, 0#32⟩ } := by decide

/-- SP5: (word). -/
theorem test_sp5 :
    run1 (st 0x100#32 0x27302B3#32 0x100#32 [(6#5, 3#32), (7#5, 4#32)]) =
      some { (st 0x100#32 0x27302B3#32 0x100#32 [(6#5, 3#32), (7#5, 4#32)])
        with fault := ⟨.decodeSubselect, 0x27302B3#32⟩ } := by decide

/-- SP1: addi x5, x0, 1. -/
theorem test_sp1 :
    run1 (st 0x100#32 0x100293#32 0xFFFFFFF0#32 []) =
      some { (st 0x100#32 0x100293#32 0xFFFFFFF0#32 [])
        with terminated := true, termCause := .sentinel } := by decide

/-- SP2: addi x5, x0, 1. -/
theorem test_sp2 :
    run1 (st 0x100#32 0x100293#32 0x200#32 []) =
      some { (st 0x100#32 0x100293#32 0x200#32 [])
        with terminated := true, termCause := .hostAbort } := by decide

/-- The state of SY2, SY8 and their neighbours: an ECALL at `0x100`, with what the host will answer. -/
def sys (id fd buf count : Word) (replies : List HostReply) (mem : List (Nat × List Byte) := []) : State :=
  { st 0x100#32 0x00000073#32 0x100#32 [(17#5, id), (10#5, fd), (11#5, buf), (12#5, count)] mem with hostReplies := replies }

/-- SY2 and SY8: `write(1, 0x1000, 3)` hands over `48 69 0A` and answers 3; `read(0, 0x2000, 8)` with `61 62 63`
available answers 3 and stores them. -/
theorem test_sy2_sy8 :
    (run1 (sys 64#32 1#32 0x1000#32 3#32 [oracleReply [] (.write 1#32 [0x48#8, 0x69#8, 0x0A#8])]
        [(0x1000, [0x48#8, 0x69#8, 0x0A#8])])).map (fun t => (t.readReg 10#5, t.pc, t.hostCalls)) =
      some (3#32, 0x104#32, [.write 1#32 [0x48#8, 0x69#8, 0x0A#8]]) ∧
    (run1 (sys 63#32 0#32 0x2000#32 8#32 [oracleReply [0x61#8, 0x62#8, 0x63#8] (.read 0#32 8#32)]
        [(0x2003, [0x99#8])])).map (fun t => (t.readReg 10#5, t.pc, t.mem.readBytes 0x2000 5, t.hostReplies)) =
      some (3#32, 0x104#32, [0x61#8, 0x62#8, 0x63#8, 0x99#8, 0#8], []) := by decide

/-- SY12 and SY15: `exit(7)`; ids are compared as full 32-bit values. -/
theorem test_sy12_sy15 :
    (run1 (sys 93#32 7#32 0#32 0#32 [])).map (fun t => (t.terminated, t.termCause, t.exitCode, t.pc)) =
      some (true, .exit, 7#32, 0x104#32) ∧
    (run1 (sys 0x80000040#32 1#32 0#32 0#32 [])).map (fun t => (t.fault, t.pc)) =
      some (⟨.syscallUnknown, 0x80000040#32⟩, 0x100#32) := by decide

/-- LD9, LD16 and LD13: the diagnostic of a misaligned access that is made, none for one out of bounds or of a
byte. -/
theorem test_warnings :
    warnMisaligned (.lw 5#5 6#5 1#12) (st 0x100#32 0#32 0x100#32 [(6#5, 0x1000#32)]) = some ⟨0x1001#32, 4⟩ ∧
    warnMisaligned (.lw 5#5 6#5 0#12) (st 0x100#32 0#32 0x100#32 [(6#5, 0xFFFE#32)]) = none ∧
    warnMisaligned (.lbu 5#5 6#5 0#12) (st 0x100#32 0#32 0x100#32 [(6#5, 0xFFFF#32)]) = none := by decide

/-! ## Witnesses: a concrete input that meets the hypotheses of each statement, clause by clause -/

/-- A state with two operands, `pc = 0x100`. -/
def ab (a b : Word) : State := st 0x100#32 0#32 0x100#32 [(6#5, a), (7#5, b)]

theorem witness_EncodeThenDecode : Instr.wf (.beq 0#5 31#5 0x1FFE#13) = true ∧ Instr.wf (.srai 31#5 0#5 0x400#12) = true := by
  decide

theorem witness_DecodeThenEncode : decode 0xFE730CE3#32 = .ok (.beq 6#5 7#5 0x1FF8#13) := by decide

theorem witness_UnrecognisedOpcodeIsError : (0x00000073#32 &&& 0xFFFFFFFC#32 : Word).extractLsb' 0 2 ≠ 0b11#2 := by decide

theorem witness_SignExtenderCopiesSignBit : (0 : Nat) < 32 ∧ 0 < 32 ∧ 11 < 32 ∧ 31 < 32 := by decide

theorem witness_ComparatorReadsSignedAndUnsigned :
    (0x80000000#32).toInt < (0x7FFFFFFF#32).toInt ∧ (0x80000000#32).toInt ≤ (0x80000000#32).toInt ∧
    (0#32).toNat < (0xFFFFFFFF#32).toNat ∧ (0#32).toNat ≤ (0#32).toNat := by decide

theorem witness_RegisterPortsHardwireZero : (1#5 : RegIdx) ≠ 0#5 ∧ (31#5 : RegIdx) ≠ 0#5 ∧ (0#5 : RegIdx) ≠ 31#5 := by decide

/-- The last word of memory, and a word at an odd address. -/
theorem witness_MixedWidthsSeeOneArray : State.reset.mem.wf = true ∧ State.reset.params.memSize ≤ 2 ^ 32 ∧
    (State.reset.memWrite 0xFFFC#32 4 0x11223344#32).isSome = true ∧
    (State.reset.memWrite 1#32 4 0x11223344#32).isSome = true := by decide

/-- Offsets 8 and 2, and the smallest offset, which wraps. -/
theorem witness_JalResult : ((ab 0 0).pc + (8#21).signExtend 32).toNat % 4 = 0 ∧
    ((ab 0 0).pc + (0x100000#21).signExtend 32).toNat % 4 = 0 ∧ ((ab 0 0).pc + (2#21).signExtend 32).toNat % 4 ≠ 0 := by decide

/-- Sums `0x201` (bit 0 dropped) and `0x203`. -/
theorem witness_JalrResult : ((ab 0x200 0).readReg 6#5 + (1#12).signExtend 32).getLsbD 1 = false ∧
    ((ab 0x200 0).readReg 6#5 + (3#12).signExtend 32).getLsbD 1 = true := by decide

/-- Operands for which each condition holds and fails, and offsets to an aligned and to a misaligned target. -/
theorem witness_BranchOutcomes :
    (ab 5 5).readReg 6#5 = (ab 5 5).readReg 7#5 ∧ (ab 5 6).readReg 6#5 ≠ (ab 5 6).readReg 7#5 ∧
    ((ab 0x80000000 0x7FFFFFFF).readReg 6#5).toInt < ((ab 0x80000000 0x7FFFFFFF).readReg 7#5).toInt ∧
    ((ab 5 5).readReg 7#5).toInt ≤ ((ab 5 5).readReg 6#5).toInt ∧
    ((ab 0 0xFFFFFFFF).readReg 6#5).toNat < ((ab 0 0xFFFFFFFF).readReg 7#5).toNat ∧
    ((ab 5 5).readReg 7#5).toNat ≤ ((ab 5 5).readReg 6#5).toNat ∧
    ((ab 5 5).pc + (0x1000#13).signExtend 32).toNat % 4 = 0 ∧ ((ab 5 5).pc + (0xFFE#13).signExtend 32).toNat % 4 ≠ 0 := by
  decide

/-- Accesses of 1, 2 and 4 bytes that end with the last byte of memory, and one address above each. -/
theorem witness_LoadResults_StoreResults :
    (ab 0xFFFF 0).mem.wf = true ∧ ((ab 0xFFFF 0).effAddr 6#5 0#12).toNat + 1 ≤ (ab 0xFFFF 0).params.memSize ∧
    (ab 0x10000 0).params.memSize < ((ab 0x10000 0).effAddr 6#5 0#12).toNat + 1 ∧
    ((ab 0xFFFF 0).effAddr 6#5 0xFFF#12).toNat + 2 ≤ (ab 0xFFFF 0).params.memSize ∧
    (ab 0xFFFF 0).params.memSize < ((ab 0xFFFF 0).effAddr 6#5 0#12).toNat + 2 ∧
    ((ab 0xFFFC 0).effAddr 6#5 0#12).toNat + 4 ≤ (ab 0xFFFC 0).params.memSize ∧
    (ab 0xFFFC 0).params.memSize < ((ab 0xFFFC 0).effAddr 6#5 1#12).toNat + 4 ∧
    (ab 0xFFFFFFFE 0).params.memSize < ((ab 0xFFFFFFFE 0).effAddr 6#5 0#12).toNat + 4 := by decide

theorem witness_ShiftImmediateResults : (0b0100000#7 : BitVec 7) ≠ 0b0000000#7 ∧ (0b0000001#7 : BitVec 7) ≠ 0b0000000#7 ∧
    (0b0000001#7 : BitVec 7) ≠ 0b0100000#7 := by decide

/-- The whole of memory above `0xFFFD`, and a buffer of no bytes at its end; an answer listed and none. -/
theorem witness_EcallWriteResult :
    (sys 64#32 1#32 0xFFFD#32 3#32 [⟨3#32, []⟩]).readReg (sys 64#32 1#32 0xFFFD#32 3#32 [⟨3#32, []⟩]).params.syscallIdReg =
      (sys 64#32 1#32 0xFFFD#32 3#32 [⟨3#32, []⟩]).params.sysWrite ∧
    ((sys 64#32 1#32 0xFFFD#32 3#32 [⟨3#32, []⟩]).readReg 11#5).toNat +
      ((sys 64#32 1#32 0xFFFD#32 3#32 [⟨3#32, []⟩]).readReg 12#5).toNat ≤
      (sys 64#32 1#32 0xFFFD#32 3#32 [⟨3#32, []⟩]).params.memSize ∧
    ((sys 64#32 1#32 0x10000#32 0#32 []).readReg 11#5).toNat + ((sys 64#32 1#32 0x10000#32 0#32 []).readReg 12#5).toNat ≤
      (sys 64#32 1#32 0x10000#32 0#32 []).params.memSize ∧
    (sys 64#32 1#32 0x10000#32 0#32 []).hostReplies = [] := by decide

/-- A `read` of 3 bytes at the end of memory: answers 3 (as many as asked) and `0xFFFFFFFF` (a failure). -/
theorem witness_EcallReadResult :
    (sys 63#32 0#32 0xFFFD#32 3#32 [⟨3#32, [1#8, 2#8, 3#8]⟩]).params.wf ∧
    (sys 63#32 0#32 0xFFFD#32 3#32 [⟨3#32, [1#8, 2#8, 3#8]⟩]).mem.wf = true ∧
    (sys 63#32 0#32 0xFFFD#32 3#32 [⟨3#32, [1#8, 2#8, 3#8]⟩]).syscallId = Params.scratch.sysRead ∧
    (sys 63#32 0#32 0xFFFD#32 3#32 [⟨3#32, [1#8, 2#8, 3#8]⟩]).bufferOk = true ∧
    (3#32).toNat ≤ ((sys 63#32 0#32 0xFFFD#32 3#32 [⟨3#32, [1#8, 2#8, 3#8]⟩]).readReg 12#5).toNat ∧
    ((sys 63#32 0#32 0xFFFD#32 3#32 [⟨0xFFFFFFFF#32, []⟩]).readReg 12#5).toNat < (0xFFFFFFFF#32).toNat := by decide

/-- A `read` with no answer listed, as in every state a launch reaches. The whole of a memory of `2^32` bytes but its
last is asked for: whatever the free answer is, it is at most `count`. -/
theorem witness_EcallReadResult_no_answer_listed :
    let s := { sys 63#32 0#32 0#32 0xFFFFFFFF#32 [] with params := { Params.scratch with memSize := 2 ^ 32 } }
    s.params.wf ∧ s.mem.wf = true ∧ s.readReg s.params.syscallIdReg = s.params.sysRead ∧
    (s.readReg 11#5).toNat + (s.readReg 12#5).toNat ≤ s.params.memSize ∧ s.hostReplies = [] ∧
    (Config.hostResult s.hostCalls.length).toNat ≤ (s.readReg 12#5).toNat :=
  ⟨by decide, by decide, by decide, by decide, by decide, Nat.le_of_lt_succ (Config.hostResult 0).isLt⟩

/-- A `read` of no byte at the end of memory with no answer listed: for a free answer 0 nothing is moved by the one
clause, and for every other by the clause of an answer above `count`. -/
theorem witness_EcallReadResult_both_clauses :
    (sys 63#32 0#32 0x10000#32 0#32 []).bufferOk = true ∧ (sys 63#32 0#32 0x10000#32 0#32 []).hostReplies = [] ∧
    ∀ r : Word, r ≠ 0#32 ↔ ((sys 63#32 0#32 0x10000#32 0#32 []).readReg 12#5).toNat < r.toNat :=
  ⟨by decide, by decide, fun r => by
    rw [show (sys 63#32 0#32 0x10000#32 0#32 []).readReg 12#5 = 0#32 by decide, Ne, ← BitVec.toNat_inj]
    simp [Nat.pos_iff_ne_zero]⟩

theorem witness_EcallExitResult : (sys 93#32 7#32 0#32 0#32 []).params.wf ∧
    (sys 93#32 7#32 0#32 0#32 []).readReg (sys 93#32 7#32 0#32 0#32 []).params.syscallIdReg =
      (sys 93#32 7#32 0#32 0#32 []).params.sysExit := by decide

/-- SY14, SY5 and SY11. -/
theorem witness_EcallErrors :
    (sys 0#32 1#32 0#32 0#32 []).syscallId ∉ [Params.scratch.sysRead, Params.scratch.sysWrite, Params.scratch.sysExit] ∧
    (sys 64#32 1#32 0xFFFF#32 2#32 []).syscallId ∈ [Params.scratch.sysRead, Params.scratch.sysWrite] ∧
    (sys 64#32 1#32 0xFFFF#32 2#32 []).bufferOk = false ∧
    (sys 63#32 0#32 0xFFFE#32 4#32 []).syscallId ∈ [Params.scratch.sysRead, Params.scratch.sysWrite] ∧
    (sys 63#32 0#32 0xFFFE#32 4#32 []).params.memSize < 0xFFFE + 4 := by decide

/-- An instruction answers a next state without an error, and one with an error, from a state without one. Both are
inputs of the whole-machine statements about `exec`. -/
theorem witness_whole_machine :
    (after (exec (.sw 6#5 7#5 0#12) (ab 0x1000 5))).map (fun t => t.fault.code) = some .ok ∧
    (after (exec (.jal 1#5 2#21) (ab 0 0))).map (fun t => t.fault.code) = some .misalignedTarget ∧
    (ab 0 0).fault.code = .ok ∧ (Instr.sw 6#5 7#5 0#12 ≠ .ebreak ∧ Instr.sw 6#5 7#5 0#12 ≠ .ecall) ∧
    destination (.sw 6#5 7#5 0#12) ≠ some 6#5 := by decide

/-- Two states that differ in their control state alone. -/
theorem witness_ControlStateIsUnreadable :
    (ab 1 2).finish .ebreak ≠ ab 1 2 ∧ ((ab 1 2).finish .ebreak).regs = (ab 1 2).regs ∧
    ((ab 1 2).finish .ebreak).hostCalls = (ab 1 2).hostCalls ∧
    (after (exec (.add 5#5 6#5 7#5) (ab 1 2))).isSome = true ∧
    (after (exec (.add 5#5 6#5 7#5) ((ab 1 2).finish .ebreak))).isSome = true := by decide

/-- The word `w` at `0x100`, in a range of exactly its four bytes. -/
theorem fetches_st (w : Word) : (st 0x100#32 w 0x100#32 []).Fetches where
  noError := rfl
  running := rfl
  notSentinel := (by decide : (0x100#32 : Word) ≠ 0xFFFFFFF0#32)
  inRange := ⟨⟨0x100, 0x104⟩, List.mem_singleton.mpr rfl, (by decide : 0x100 ≤ 0x100 ∧ 0x100 + 4 ≤ 0x104)⟩
  inMemory := (by decide : 0x100 + 4 ≤ 0x10000)

theorem witness_StepRunsDecodedInstruction : (st 0x100#32 0x00100093#32 0x100#32 []).Fetches ∧
    decode (st 0x100#32 0x00100093#32 0x100#32 []).wordAtPc = .ok (.addi 1#5 0#5 1#12) := ⟨fetches_st _, by decide⟩

theorem witness_StoppedStepChangesNothing : ((ab 0 0).latch .memOob 0#32).fault.code ≠ .ok ∧
    ((ab 0 0).finish .ebreak).terminated = true := by decide

/-- SP1 and SP2, and a range that holds only half of the word at `pc`. -/
theorem witness_RunEndsBeforeFetch :
    (st 0x100#32 0#32 0xFFFFFFF0#32 []).fault.code = .ok ∧ (st 0x100#32 0#32 0xFFFFFFF0#32 []).terminated = false ∧
    (st 0x100#32 0#32 0xFFFFFFF0#32 []).pc = (st 0x100#32 0#32 0xFFFFFFF0#32 []).params.haltSentinel ∧
    (st 0x100#32 0#32 0x104#32 []).pc ≠ (st 0x100#32 0#32 0x104#32 []).params.haltSentinel ∧
    (∀ r ∈ (st 0x100#32 0#32 0x104#32 []).execRanges,
      (st 0x100#32 0#32 0x104#32 []).pc.toNat < r.start ∨ r.stop < (st 0x100#32 0#32 0x104#32 []).pc.toNat + 4) ∧
    (∀ r ∈ (st 0x100#32 0#32 0xFC#32 []).execRanges,
      (st 0x100#32 0#32 0xFC#32 []).pc.toNat < r.start ∨ r.stop < (st 0x100#32 0#32 0xFC#32 []).pc.toNat + 4) := by decide

/-- SP3 and SP5; a range above memory, which no launch makes, for the third clause. -/
theorem witness_FetchAndDecodeErrors :
    ((st 0x100#32 0#32 0x100#32 []).Fetches ∧ decode (st 0x100#32 0#32 0x100#32 []).wordAtPc = .error .opcode) ∧
    ((st 0x100#32 0x027302B3#32 0x100#32 []).Fetches ∧
      decode (st 0x100#32 0x027302B3#32 0x100#32 []).wordAtPc = .error .subselect) ∧
    (st 0xFFFE#32 0#32 0xFFFE#32 []).pcExecutable = true ∧
    (st 0xFFFE#32 0#32 0xFFFE#32 []).params.memSize < (st 0xFFFE#32 0#32 0xFFFE#32 []).pc.toNat + 4 :=
  ⟨⟨fetches_st _, by decide⟩, ⟨fetches_st _, by decide⟩, by decide, by decide⟩

theorem witness_UnknownInstructionIsUnreachable : (ab 0 0).fault.code ≠ .unknownInstr ∧
    (after (Sys2Proof.core.run 2 (ab 0 0))).isSome = true := ⟨by decide, by decide⟩

/-- Each of the four ends, from a state that is still running. -/
theorem witness_OnlyFourCausesTerminate :
    (run1 (st 0x100#32 0#32 0xFFFFFFF0#32 [])).map (fun t => t.terminated) = some true ∧
    (run1 (st 0x100#32 0#32 0x200#32 [])).map (fun t => t.terminated) = some true ∧
    (run1 (st 0x100#32 0x00100073#32 0x100#32 [])).map (fun t => t.terminated) = some true ∧
    (run1 (sys 93#32 7#32 0#32 0#32 [])).map (fun t => t.terminated) = some true ∧
    (sys 93#32 7#32 0#32 0#32 []).terminated = false := by decide

/-- ST14: a store over the instruction itself. -/
theorem witness_FetchSeesTheStore_StoreThenLoadWord :
    (ab 0x100 0x12B00513).mem.wf = true ∧ (ab 0x100 0x12B00513).fault.code = .ok ∧
    (after (exec (.sw 6#5 7#5 0#12) (ab 0x100 0x12B00513))).map (fun t => t.fault.code) = some .ok ∧
    ((ab 0x100 0x12B00513).effAddr 6#5 0#12).toNat + 4 ≤ (ab 0x100 0x12B00513).params.memSize := by decide

/-- A segment that ends with memory; one past it, one reversed and one of the wrong length. -/
theorem witness_MapCopiesASegment : State.reset.mem.wf = true ∧
    (Segment.fits ⟨0xFFFF, 0x10000, [1#8]⟩ State.reset.params.memSize = true ∧
      Segment.fits ⟨5, 5, []⟩ State.reset.params.memSize = true) ∧
    Segment.fits ⟨0xFFFF, 0x10001, [1#8, 2#8]⟩ State.reset.params.memSize = false ∧
    Segment.fits ⟨5, 4, []⟩ State.reset.params.memSize = false ∧
    Segment.fits ⟨0, 4, [1#8]⟩ State.reset.params.memSize = false := by decide

/-- Two segments that touch, an empty one, and one at the end of memory. -/
def segments : List Segment := [⟨0, 4, bytesOfWord 0x00100073#32⟩, ⟨4, 6, [7#8, 0#8]⟩, ⟨6, 6, []⟩, ⟨0xFFFF, 0x10000, [9#8]⟩]

theorem witness_LaunchInitialises : Params.scratch.wf ∧ (4#32).toNat % 4 = 0 ∧
    (∀ g ∈ segments, g.start ≤ g.stop ∧ g.stop ≤ Params.scratch.memSize ∧ g.bytes.length = g.stop - g.start) ∧
    segments.Pairwise (fun g h => g.stop ≤ h.start ∨ h.stop ≤ g.start) ∧
    ∀ g ∈ segments, Params.scratch.haltSentinel.toNat < g.start ∨ g.stop ≤ Params.scratch.haltSentinel.toNat := by decide

theorem witness_BadLaunchNeverStarts : (after (launch Params.scratch segments 0#32)).isSome = true := by decide

/-- What a launch refuses: overlapping segments, the sentinel in a segment, a misaligned entry point. -/
theorem test_launch_refuses :
    (match launch Params.scratch [⟨0, 4, bytesOfWord 0#32⟩, ⟨3, 4, [0#8]⟩] 0#32 with
      | .refused .segmentsOverlap => true | _ => false) = true ∧
    (match launch { Params.scratch with haltSentinel := 0#32 } segments 0#32 with
      | .refused .sentinelMisplaced => true | _ => false) = true ∧
    (match launch Params.scratch segments 2#32 with
      | .refused (.entryPointMisaligned _) => true | _ => false) = true := by decide

theorem witness_ResetMeetsInvariant : Params.scratch.wf ∧ { Params.scratch with memSize := 4 }.wf ∧
    { Params.scratch with memSize := 2 ^ 32 }.wf := by decide

/-- The state right after reset meets the invariant, and a step from it answers (HOST_ABORT). -/
theorem witness_StepKeepsInvariant : State.reset.Inv ∧ step State.reset = .next (State.reset.finish .hostAbort) :=
  ⟨⟨by decide, by decide, by decide, by decide, by decide, by decide, by decide, by decide, by decide, by decide⟩, rfl⟩

/-- A run of a launch whose one segment is an EBREAK: its first state, and its second, in which it has ended. -/
theorem witness_RunsMeetInvariantAndFetch_EndedRunIsFinal :
    ∃ s t, Reachable s ∧ step s = .next t ∧ Reachable t ∧ t.ended = true :=
  have h : Launched _ := ⟨Params.scratch, [⟨0, 4, bytesOfWord 0x00100073#32⟩], 0#32, by decide, rfl⟩
  ⟨_, _, .start h, rfl, .step (.start h) rfl, rfl⟩

/-- The memory after reset, and after a write of the byte an unlisted address reads as, has the canonical form. -/
theorem test_memory_canonical : Memory.write (Memory.write [] 5 3#8) 5 0#8 = [] ∧
    Memory.wf (Memory.write (Memory.write [] 5 3#8) 2 1#8) = true ∧ Memory.wf [(5, 3#8), (2, 1#8)] = false ∧
    Memory.wf [(5, 0#8)] = false := by decide

end Sys2Proof.Machine.Tests
end

section
/-! PROOFS. What the sign extender `sext` gives: each bit of its result, and its two's-complement value. -/

namespace Sys2Proof.Machine

/-- R9, bit by bit: the `n + 1` bits of the operand stay, the bits above copy its sign bit, bit `n`. -/
theorem getLsbD_sext {n i : Nat} (v : BitVec (n + 1)) (hi : i < 32) :
    (sext v).getLsbD i = if i ≤ n then v.getLsbD i else v.getLsbD n := by
  rw [sext, BitVec.getLsbD_signExtend, BitVec.msb_eq_getLsbD_last, Nat.add_sub_cancel]
  simp [hi]

/-- R9, as a number: an operand no wider than a word keeps its signed reading. -/
theorem toInt_sext {n : Nat} (v : BitVec n) (hn : n ≤ 32) : (sext v).toInt = v.toInt :=
  BitVec.toInt_signExtend_of_le hn

/-- Settles O8: the bits by `getLsbD_sext`, the value by `toInt_sext`, as `n + 1` bits fit a word. -/
theorem signExtenderCopiesSignBit : Obligations.SignExtenderCopiesSignBit :=
  fun _ v hn => ⟨fun _ hi => getLsbD_sext v hi, toInt_sext v hn⟩

end Sys2Proof.Machine
end

section
/-! PROOFS. Which words the decoder rejects with the opcode error: those whose opcode selects no class (R65, R76). -/

namespace Sys2Proof.Machine

/-- R76: the opcodes without a class are those that are no class's opcode. -/
theorem opClassOf_eq_none_iff {op : BitVec 7} : opClassOf op = none ↔ op ∉ OpClass.all.map OpClass.code := by
  simp [opClassOf]

/-- The eleven opcodes of R65, in ascending order. -/
theorem codes_perm : (OpClass.all.map OpClass.code).Perm
    [0b0000011#7, 0b0001111#7, 0b0010011#7, 0b0010111#7, 0b0100011#7, 0b0110011#7, 0b0110111#7, 0b1100011#7,
      0b1100111#7, 0b1101111#7, 0b1110011#7] := by decide

/-- The tables of a recognised opcode (R66 to R74) answer an instruction or the subselect error, never the
opcode error. -/
theorem decode_ne_opcode_of_opClassOf {w : Word} {c : OpClass} (h : opClassOf (opcodeField w) = some c) :
    decode w ≠ .error .opcode := by
  rw [decode, h]
  cases c with
  | lui | auipc | jal => simp
  | jalr | branch | load | store | arithImm | arithReg | fence | system =>
    dsimp only [decodeJalr, decodeBranch, decodeLoad, decodeStore, decodeArithImm, decodeArithReg, decodeFence,
      decodeSystem]
    split_ifs <;> simp

/-- R64: the opcode error is the one of the class lookup. -/
theorem decode_eq_opcode_iff {w : Word} : decode w = .error .opcode ↔ opClassOf (opcodeField w) = none := by
  constructor
  · intro hw
    rw [Option.eq_none_iff_forall_ne_some]
    exact fun c hc => decode_ne_opcode_of_opClassOf hc hw
  · intro h
    rw [decode, h]

/-- R65: every opcode of a class ends in `11`. -/
theorem code_slice_lo (c : OpClass) : c.code.extractLsb' 0 2 = 0b11#2 := by cases c <;> rfl

theorem opcodeField_slice_lo (w : Word) : (opcodeField w).extractLsb' 0 2 = w.extractLsb' 0 2 :=
  BitVec.extractLsb'_extractLsb'_of_le (by decide)

/-- A word of a class ends in `11`, as its opcode does. -/
theorem slice_lo_of_opClassOf {w : Word} {c : OpClass} (h : opClassOf (opcodeField w) = some c) :
    w.extractLsb' 0 2 = 0b11#2 := by
  rw [← opcodeField_slice_lo, ← code_of_opClassOf h, code_slice_lo]

/-- Settles O5: the opcode error is that of the class lookup, by `decode_eq_opcode_iff`; a word not ending in `11`
has no class, by `slice_lo_of_opClassOf`. -/
theorem unrecognisedOpcodeIsError : Obligations.UnrecognisedOpcodeIsError := by
  refine ⟨fun w => ?_, fun w hw => ?_⟩
  · rw [decode_eq_opcode_iff, opClassOf_eq_none_iff, codes_perm.mem_iff, opcodeField]
  · rw [decode_eq_opcode_iff, Option.eq_none_iff_forall_ne_some]
    exact fun c hc => hw (slice_lo_of_opClassOf hc)

end Sys2Proof.Machine
end

section
/-! PROOFS. The shift unit (`spec/40_datapath.md` rules R87 to R90): each shift as an exact integer and bit by bit,
the two readings of the shift amount, and the shift by 0. -/

namespace Sys2Proof.Machine

/-- R87, as a number. -/
theorem toNat_aluSll (a : Word) (sh : BitVec 5) : (aluSll a sh).toNat = a.toNat * 2 ^ sh.toNat % 2 ^ 32 := by
  rw [aluSll, BitVec.toNat_shiftLeft, Nat.shiftLeft_eq]

/-- R88, as a number. -/
theorem toNat_aluSrl (a : Word) (sh : BitVec 5) : (aluSrl a sh).toNat = a.toNat / 2 ^ sh.toNat := by
  rw [aluSrl, BitVec.toNat_ushiftRight, Nat.shiftRight_eq_div_pow]

/-- R89, as a number: the division of the signed reading rounds down, as the divisor is positive. -/
theorem toInt_aluSra (a : Word) (sh : BitVec 5) : (aluSra a sh).toInt = a.toInt / 2 ^ sh.toNat := by
  rw [aluSra, BitVec.toInt_sshiftRight, Int.shiftRight_eq_div_pow, Int.natCast_pow, Nat.cast_ofNat]

/-- R87, bit by bit: zeros enter at the low end. -/
theorem getLsbD_aluSll (a : Word) (sh : BitVec 5) {i : Nat} (hi : i < 32) :
    (aluSll a sh).getLsbD i = (decide (sh.toNat ≤ i) && a.getLsbD (i - sh.toNat)) := by
  rw [aluSll, BitVec.getLsbD_shiftLeft]
  simp only [hi, decide_true, Bool.true_and, ← decide_not, Nat.not_lt]

/-- R88, bit by bit: the bits of `a` beyond bit 31, which read as zero, enter at the high end. -/
theorem getLsbD_aluSrl (a : Word) (sh : BitVec 5) (i : Nat) :
    (aluSrl a sh).getLsbD i = if i + sh.toNat < 32 then a.getLsbD (i + sh.toNat) else false := by
  rw [aluSrl, BitVec.getLsbD_ushiftRight, Nat.add_comm]
  split
  · rfl
  · next h => exact BitVec.getLsbD_of_ge a _ (Nat.not_lt.mp h)

/-- R89, bit by bit: copies of bit 31 enter at the high end. -/
theorem getLsbD_aluSra (a : Word) (sh : BitVec 5) {i : Nat} (hi : i < 32) :
    (aluSra a sh).getLsbD i = if i + sh.toNat < 32 then a.getLsbD (i + sh.toNat) else a.getLsbD 31 := by
  rw [aluSra, BitVec.getLsbD_sshiftRight, Nat.add_comm, BitVec.msb_eq_getLsbD_last]
  simp [Nat.not_le.mpr hi]

/-- R90: the amount of an immediate shift. -/
theorem toNat_shamtImm (imm : BitVec 12) : (shamtImm imm).toNat = imm.toNat % 32 :=
  BitVec.extractLsb'_toNat 0 5 imm

/-- R90: the amount of a register shift. -/
theorem toNat_shamtReg (v : Word) : (shamtReg v).toNat = v.toNat % 32 :=
  BitVec.extractLsb'_toNat 0 5 v

theorem aluSll_zero (a : Word) : aluSll a 0#5 = a := BitVec.shiftLeft_zero a

theorem aluSrl_zero (a : Word) : aluSrl a 0#5 = a := BitVec.ushiftRight_zero a

theorem aluSra_zero (a : Word) : aluSra a 0#5 = a := BitVec.sshiftRight_zero

/-- Settles O10: numbers and bits by the two lemmas of each shift, then the amounts and the shifts by 0. -/
theorem shiftUnitComputes : Obligations.ShiftUnitComputes :=
  ⟨fun a sh => ⟨toNat_aluSll a sh, toNat_aluSrl a sh, toInt_aluSra a sh, fun _ hi => getLsbD_aluSll a sh hi,
      fun i _ => getLsbD_aluSrl a sh i, fun _ hi => getLsbD_aluSra a sh hi⟩,
    toNat_shamtImm, toNat_shamtReg, fun a => ⟨aluSll_zero a, aluSrl_zero a, aluSra_zero a⟩⟩

end Sys2Proof.Machine
end

section
/-! PROOFS. The comparator (`spec/40_datapath.md` rules R86, R92): when each of the six conditions holds, and the two
set-less-than values. -/

namespace Sys2Proof.Machine

variable {a b : Word}

theorem condEq_iff : condEq a b = true ↔ a = b := beq_iff_eq

theorem condLt_iff : condLt a b = true ↔ a.toInt < b.toInt := decide_eq_true_iff

theorem condLtu_iff : condLtu a b = true ↔ a.toNat < b.toNat := decide_eq_true_iff

/-- R92: BNE is the negation of BEQ. -/
theorem condNe_iff : condNe a b = true ↔ a ≠ b := by
  rw [condNe, Bool.not_eq_true', ← Bool.not_eq_true, condEq_iff]

/-- R92: BGE is the negation of BLT. -/
theorem condGe_iff : condGe a b = true ↔ b.toInt ≤ a.toInt := by
  rw [condGe, Bool.not_eq_true', ← Bool.not_eq_true, condLt_iff, Int.not_lt]

/-- R92: BGEU is the negation of BLTU. -/
theorem condGeu_iff : condGeu a b = true ↔ b.toNat ≤ a.toNat := by
  rw [condGeu, Bool.not_eq_true', ← Bool.not_eq_true, condLtu_iff, Nat.not_lt]

/-- R86: SLT is 1 where BLT would be taken and 0 elsewhere. -/
theorem aluSlt_eq : aluSlt a b = if a.toInt < b.toInt then 1#32 else 0#32 := by
  simp only [aluSlt, boolWord, condLt_iff]

/-- R86: SLTU is 1 where BLTU would be taken and 0 elsewhere. -/
theorem aluSltu_eq : aluSltu a b = if a.toNat < b.toNat then 1#32 else 0#32 := by
  simp only [aluSltu, boolWord, condLtu_iff]

/-- Settles O11: the values by `aluSlt_eq` and `aluSltu_eq`, each condition by its own equivalence. -/
theorem comparatorReadsSignedAndUnsigned : Obligations.ComparatorReadsSignedAndUnsigned := fun _ _ =>
  ⟨fun h => aluSlt_eq.trans (if_pos h), fun h => aluSlt_eq.trans (if_neg (Int.not_lt.mpr h)),
    fun h => aluSltu_eq.trans (if_pos h), fun h => aluSltu_eq.trans (if_neg (Nat.not_lt.mpr h)),
    condEq_iff, condNe_iff, condLt_iff, condGe_iff, condLtu_iff, condGeu_iff⟩

end Sys2Proof.Machine
end

section
/-! PROOFS. The next `pc` (`spec/40_datapath.md` rule R95): one lemma per shared operation, and from them every
instruction. -/

namespace Sys2Proof.Machine

variable {s : State}

/-- If the answer is a state without a latched error, its `pc` is `p`. -/
def ContinuesAt (r : Result) (p : Word) : Prop := ∀ t, r = .next t → t.fault.code = .ok → t.pc = p

/-- A given next state continues at its own `pc`. -/
theorem continuesAt_next {t : State} {p : Word} (h : t.pc = p) : ContinuesAt (.next t) p := by
  rintro _ ⟨⟩ -
  exact h

/-- R198: an error leaves nothing to continue. -/
theorem continuesAt_raiseFault {code : ErrCode} (h : code ≠ .ok) (info p : Word) :
    ContinuesAt (raiseFault code info s) p := by
  rintro _ ⟨⟩ hok
  exact absurd hok h

theorem continuesAt_commitNothing : ContinuesAt (commitNothing s) (s.pc + 4#32) := continuesAt_next rfl

theorem continuesAt_commitReg (rd : RegIdx) (v : Word) : ContinuesAt (commitReg rd v s) (s.pc + 4#32) :=
  continuesAt_next (by rw [State.advance_pc, State.pcPlus4, State.writeReg_pc])

theorem continuesAt_jumpAndLink (rd : RegIdx) (target : Word) : ContinuesAt (jumpAndLink rd target s) target := by
  unfold jumpAndLink
  split
  · exact continuesAt_next rfl
  · exact continuesAt_raiseFault (by decide) _ _

/-- A branch whose decision `c` means `P` goes to its target where `P` holds and increments `pc` where not. -/
theorem continuesAt_branchIf {c : Bool} {P : Prop} [Decidable P] (h : c = true ↔ P) (imm : BitVec 13) :
    ContinuesAt (branchIf c imm s) (if P then s.pc + imm.signExtend 32 else s.pc + 4#32) := by
  unfold branchIf
  simp only [h]
  by_cases hP : P
  · simp only [if_pos hP]
    split
    · exact continuesAt_next rfl
    · exact continuesAt_raiseFault (by decide) _ _
  · simp only [if_neg hP]
    exact continuesAt_next rfl

theorem continuesAt_loadTo {n : Nat} (rd : RegIdx) (a : Word) (d : Option (BitVec n)) (ext : BitVec n → Word) :
    ContinuesAt (loadTo rd a d ext s) (s.pc + 4#32) := by
  cases d with
  | none => exact continuesAt_raiseFault (by decide) _ _
  | some v => exact continuesAt_commitReg rd (ext v)

theorem continuesAt_storeAt (a : Word) (n : Nat) (v : Word) : ContinuesAt (storeAt a n v s) (s.pc + 4#32) := by
  unfold storeAt State.memWrite
  by_cases h : s.accessOk a n = true
  · rw [if_pos h]
    exact continuesAt_next rfl
  · rw [if_neg h]
    exact continuesAt_raiseFault (by decide) _ _

theorem continuesAt_bridgeWrite : ContinuesAt (bridgeWrite s) (s.pc + 4#32) := by
  unfold bridgeWrite
  split
  · exact continuesAt_commitReg (s := s.callHost s.writeCall) _ _
  · exact continuesAt_raiseFault (by decide) _ _

theorem continuesAt_bridgeRead : ContinuesAt (bridgeRead s) (s.pc + 4#32) := by
  unfold bridgeRead
  split
  · exact continuesAt_commitReg (s := { s.callHost _ with mem := _ }) _ _
  · exact continuesAt_raiseFault (by decide) _ _

theorem continuesAt_bridgeExit : ContinuesAt (bridgeExit s) (s.pc + 4#32) := continuesAt_next rfl

/-- R170: each system call advances `pc`; an unknown id is an error. -/
theorem continuesAt_execEcall : ContinuesAt (execEcall s) (s.pc + 4#32) := by
  unfold execEcall
  split_ifs
  · exact continuesAt_bridgeWrite
  · exact continuesAt_bridgeRead
  · exact continuesAt_bridgeExit
  · exact continuesAt_raiseFault (by decide) _ _

/-- R171: EBREAK advances `pc`. -/
theorem continuesAt_execEbreak : ContinuesAt (execEbreak s) (s.pc + 4#32) := continuesAt_next rfl

/-- R95: every instruction continues where `nextPc` says, by the lemma of the operation it commits with. -/
theorem continuesAt_exec (i : Instr) (s : State) : ContinuesAt (exec i s) (nextPc s i) := by
  cases i with
  | jal rd imm => exact continuesAt_jumpAndLink rd _
  | jalr rd rs1 imm => exact continuesAt_jumpAndLink rd _
  | beq rs1 rs2 imm => exact continuesAt_branchIf condEq_iff imm
  | bne rs1 rs2 imm => exact continuesAt_branchIf condNe_iff imm
  | blt rs1 rs2 imm => exact continuesAt_branchIf condLt_iff imm
  | bge rs1 rs2 imm => exact continuesAt_branchIf condGe_iff imm
  | bltu rs1 rs2 imm => exact continuesAt_branchIf condLtu_iff imm
  | bgeu rs1 rs2 imm => exact continuesAt_branchIf condGeu_iff imm
  | lb | lh | lw | lbu | lhu => exact continuesAt_loadTo _ _ _ _
  | sb | sh | sw => exact continuesAt_storeAt _ _ _
  | fence | fenceI => exact continuesAt_commitNothing
  | ecall => exact continuesAt_execEcall
  | ebreak => exact continuesAt_execEbreak
  | lui | auipc | addi | slti | sltiu | xori | ori | andi | slli | srli | srai | add | sub | sll | slt | sltu | xor
    | srl | sra | or | and => exact continuesAt_commitReg _ _

/-- Settles O31: `continuesAt_exec`, with `ContinuesAt` written out. -/
theorem nextPcSelect : Obligations.NextPcSelect := fun i s => continuesAt_exec i s

end Sys2Proof.Machine
end

section
/-! PROOFS. What a register result leaves behind: the value in `rd`, `pc`, and nothing else (`spec/40_datapath.md` rules
R94 and R95). -/

namespace Sys2Proof.Machine

/-- A register write touches no control field. -/
theorem sameControl_writeReg (s : State) (rd : RegIdx) (v : Word) : SameControl s (s.writeReg rd v) := by
  constructor <;> simp

/-- A register write and a new `pc` give exactly these two changes; with `rd = 0` the first is none. -/
theorem wroteReg_writeReg_setPc (s : State) (rd : RegIdx) (v p : Word) :
    WroteReg s ((s.writeReg rd v).setPc p) rd v p where
  result := s.readReg_writeReg_same rd v
  others _ hr := s.readReg_writeReg_other hr v
  pc := rfl
  bytes a := congrArg (·.read a) (s.writeReg_mem rd v)
  control := { sameControl_writeReg s rd v with }

/-- The default increment after a register write starts from the old `pc`. -/
theorem advance_writeReg (s : State) (rd : RegIdx) (v : Word) :
    (s.writeReg rd v).advance = (s.writeReg rd v).setPc (s.pc + 4#32) := by
  rw [State.advance, State.pcPlus4, State.writeReg_pc]

/-- What every instruction that ends in `commitReg` does. -/
theorem completes_commitReg (rd : RegIdx) (v : Word) (s : State) :
    Completes (commitReg rd v s) (fun t => WroteReg s t rd v (s.pc + 4#32)) :=
  ⟨_, rfl, (advance_writeReg s rd v).symm ▸ wroteReg_writeReg_setPc s rd v (s.pc + 4#32)⟩

end Sys2Proof.Machine
end

section
/-! PROOFS. LUI and AUIPC (`spec/41_upper_immediate.md`): their words, and with `completes_commitReg` their results. -/

namespace Sys2Proof.Machine

theorem decode_encodeU_lui (imm : BitVec 20) (rd : RegIdx) : decode (encodeU imm rd .lui) = .ok (.lui rd imm) := by
  simp only [decode, opcodeField_encodeU, opClassOf_code, rdField_encodeU, immU_encodeU]

theorem decode_encodeU_auipc (imm : BitVec 20) (rd : RegIdx) :
    decode (encodeU imm rd .auipc) = .ok (.auipc rd imm) := by
  simp only [decode, opcodeField_encodeU, opClassOf_code, rdField_encodeU, immU_encodeU]

/-- Settles O16: each word is the U layout of its class; LUI commits the upper immediate, AUIPC adds to it the `pc` of
the state before the step. -/
theorem upperImmediateResults : Obligations.UpperImmediateResults := fun rd imm s =>
  ⟨⟨decode_encodeU_lui imm rd, completes_commitReg rd (upperImm imm) s⟩,
    ⟨decode_encodeU_auipc imm rd, completes_commitReg rd (aluAdd s.pc (upperImm imm)) s⟩⟩

end Sys2Proof.Machine
end

section
/-! PROOFS. The six non-shift immediate instructions (`spec/46_arith_immediate.md` rules R135 to R141): the `funct3` that
selects each (R69), the shape they share, and with the ALU and comparator values their results. -/

namespace Sys2Proof.Machine

variable {w : Word}

/-! ## What `funct3` selects (R69) -/

theorem decodeArithImm_addi (h : funct3Field w = 0b000#3) :
    decodeArithImm w = .ok (.addi (rdField w) (rs1Field w) (immI w)) := by
  simp [decodeArithImm, h]

theorem decodeArithImm_slti (h : funct3Field w = 0b010#3) :
    decodeArithImm w = .ok (.slti (rdField w) (rs1Field w) (immI w)) := by
  simp [decodeArithImm, h]

theorem decodeArithImm_sltiu (h : funct3Field w = 0b011#3) :
    decodeArithImm w = .ok (.sltiu (rdField w) (rs1Field w) (immI w)) := by
  simp [decodeArithImm, h]

theorem decodeArithImm_xori (h : funct3Field w = 0b100#3) :
    decodeArithImm w = .ok (.xori (rdField w) (rs1Field w) (immI w)) := by
  simp [decodeArithImm, h]

theorem decodeArithImm_ori (h : funct3Field w = 0b110#3) :
    decodeArithImm w = .ok (.ori (rdField w) (rs1Field w) (immI w)) := by
  simp [decodeArithImm, h]

theorem decodeArithImm_andi (h : funct3Field w = 0b111#3) :
    decodeArithImm w = .ok (.andi (rdField w) (rs1Field w) (immI w)) := by
  simp [decodeArithImm, h]

/-- A word of this class and the I layout goes to the class's own table. -/
theorem decode_encodeI_arithImm (imm : BitVec 12) (rs1 : RegIdx) (funct3 : BitVec 3) (rd : RegIdx) :
    decode (encodeI imm rs1 funct3 rd .arithImm) = decodeArithImm (encodeI imm rs1 funct3 rd .arithImm) := by
  simp only [decode, opcodeField_encodeI, opClassOf_code]

/-! ## The shared shape (R135) -/

/-- R84: addition as integers, modulo `2 ^ 32`. -/
theorem aluAdd_eq_ofNat (a b : Word) : aluAdd a b = BitVec.ofNat 32 (a.toNat + b.toNat) := BitVec.add_def a b

/-- R135: an instruction that `funct3` selects and whose meaning commits the unit `g` of `x[rs1]` and the sign-extended
immediate follows the rule with any description `f` of that unit. -/
theorem immRule_of_commitReg {funct3 : BitVec 3} {i : RegIdx → RegIdx → BitVec 12 → Instr} {f : Word → Word → Word}
    (g : Word → Word → Word)
    (hdecode : ∀ {w}, funct3Field w = funct3 → decodeArithImm w = .ok (i (rdField w) (rs1Field w) (immI w)))
    (hexec : ∀ rd rs1 imm s, exec (i rd rs1 imm) s = commitReg rd (g (s.readReg rs1) (sext imm)) s)
    (hvalue : ∀ a b, g a b = f a b) : ImmRule funct3 i f := by
  intro rd rs1 imm s
  constructor
  · have hword := (decode_encodeI_arithImm imm rs1 funct3 rd).trans (hdecode (funct3Field_encodeI ..))
    rwa [rdField_encodeI, rs1Field_encodeI, immI_encodeI] at hword
  · rw [hexec, hvalue]
    exact completes_commitReg rd (f (s.readReg rs1) (sext imm)) s

/-- Settles O22: `immRule_of_commitReg` for each instruction, with the unit its meaning uses and that unit's value. -/
theorem arithImmediateResults : Obligations.ArithImmediateResults :=
  ⟨immRule_of_commitReg aluAdd decodeArithImm_addi (fun _ _ _ _ => rfl) aluAdd_eq_ofNat,
    immRule_of_commitReg aluSlt decodeArithImm_slti (fun _ _ _ _ => rfl) (fun _ _ => aluSlt_eq),
    immRule_of_commitReg aluSltu decodeArithImm_sltiu (fun _ _ _ _ => rfl) (fun _ _ => aluSltu_eq),
    immRule_of_commitReg aluXor decodeArithImm_xori (fun _ _ _ _ => rfl) (fun _ _ => rfl),
    immRule_of_commitReg aluOr decodeArithImm_ori (fun _ _ _ _ => rfl) (fun _ _ => rfl),
    immRule_of_commitReg aluAnd decodeArithImm_andi (fun _ _ _ _ => rfl) (fun _ _ => rfl)⟩

end Sys2Proof.Machine
end

section
/-! PROOFS. The ten register-register instructions (`spec/47_arith_register.md` rules R150 to R160): the selectors of
each (R70), the shape they share, and with the values of the ALU, the shift unit and the comparator their results. -/

namespace Sys2Proof.Machine

/-! ## What the selectors select (R70) -/

/-- In the ARITH-REG table the two selectors give `i` of the word's three register fields. -/
def ArithRegSelects (funct7 : BitVec 7) (funct3 : BitVec 3) (i : RegIdx → RegIdx → RegIdx → Instr) : Prop :=
  ∀ w, funct3Field w = funct3 → funct7Field w = funct7 →
    decodeArithReg w = .ok (i (rdField w) (rs1Field w) (rs2Field w))

theorem arithRegSelects_add : ArithRegSelects 0b0000000#7 0b000#3 .add := fun _ h3 h7 => by
  simp [decodeArithReg, h3, h7]

theorem arithRegSelects_sub : ArithRegSelects 0b0100000#7 0b000#3 .sub := fun _ h3 h7 => by
  simp [decodeArithReg, h3, h7]

theorem arithRegSelects_sll : ArithRegSelects 0b0000000#7 0b001#3 .sll := fun _ h3 h7 => by
  simp [decodeArithReg, h3, h7]

theorem arithRegSelects_slt : ArithRegSelects 0b0000000#7 0b010#3 .slt := fun _ h3 h7 => by
  simp [decodeArithReg, h3, h7]

theorem arithRegSelects_sltu : ArithRegSelects 0b0000000#7 0b011#3 .sltu := fun _ h3 h7 => by
  simp [decodeArithReg, h3, h7]

theorem arithRegSelects_xor : ArithRegSelects 0b0000000#7 0b100#3 .xor := fun _ h3 h7 => by
  simp [decodeArithReg, h3, h7]

theorem arithRegSelects_srl : ArithRegSelects 0b0000000#7 0b101#3 .srl := fun _ h3 h7 => by
  simp [decodeArithReg, h3, h7]

theorem arithRegSelects_sra : ArithRegSelects 0b0100000#7 0b101#3 .sra := fun _ h3 h7 => by
  simp [decodeArithReg, h3, h7]

theorem arithRegSelects_or : ArithRegSelects 0b0000000#7 0b110#3 .or := fun _ h3 h7 => by
  simp [decodeArithReg, h3, h7]

theorem arithRegSelects_and : ArithRegSelects 0b0000000#7 0b111#3 .and := fun _ h3 h7 => by
  simp [decodeArithReg, h3, h7]

/-- A word of this class and the R layout goes to the class's own table, which reads back the fields it was made of. -/
theorem decode_encodeR_arithReg {funct7 : BitVec 7} {funct3 : BitVec 3} {i : RegIdx → RegIdx → RegIdx → Instr}
    (h : ArithRegSelects funct7 funct3 i) (rs2 rs1 rd : RegIdx) :
    decode (encodeR funct7 rs2 rs1 funct3 rd .arithReg) = .ok (i rd rs1 rs2) := by
  have htable := h _ (funct3Field_encodeR funct7 rs2 rs1 funct3 rd .arithReg) (funct7Field_encodeR ..)
  simpa only [decode, opcodeField_encodeR, opClassOf_code, rdField_encodeR, rs1Field_encodeR, rs2Field_encodeR]
    using htable

/-! ## The values of the units -/

/-- R84: subtraction as integers, modulo `2 ^ 32`: the reading of an integer as a word keeps sums and negatives. -/
theorem aluSub_eq_ofInt (a b : Word) : aluSub a b = BitVec.ofInt 32 ((a.toNat : Int) - b.toNat) := by
  rw [aluSub, Int.sub_eq_add_neg, BitVec.ofInt_add, BitVec.ofInt_neg, BitVec.sub_eq_add_neg]
  simp only [BitVec.ofInt_natCast, BitVec.ofNat_toNat, BitVec.setWidth_eq]

/-- R87, R90: SLL by the low five bits of a register. -/
theorem aluSll_shamtReg (a b : Word) : aluSll a (shamtReg b) = BitVec.ofNat 32 (a.toNat * 2 ^ (b.toNat % 32)) :=
  BitVec.eq_of_toNat_eq <| by rw [toNat_aluSll, toNat_shamtReg, BitVec.toNat_ofNat]

/-- R88, R90: SRL by the low five bits of a register. -/
theorem aluSrl_shamtReg (a b : Word) : aluSrl a (shamtReg b) = BitVec.ofNat 32 (a.toNat / 2 ^ (b.toNat % 32)) := by
  rw [← toNat_shamtReg, ← toNat_aluSrl, BitVec.ofNat_toNat, BitVec.setWidth_eq]

/-- R89, R90: SRA by the low five bits of a register. -/
theorem aluSra_shamtReg (a b : Word) : aluSra a (shamtReg b) = BitVec.ofInt 32 (a.toInt / 2 ^ (b.toNat % 32)) := by
  rw [← toNat_shamtReg, ← toInt_aluSra, BitVec.ofInt_toInt]

/-! ## The shared shape (R150) -/

/-- R150: an instruction that the two selectors select and whose meaning commits the unit `g` of `x[rs1]` and `x[rs2]`
follows the rule with any description `f` of that unit. Both operands are read from the state before the step. -/
theorem regRule_of_commitReg {funct7 : BitVec 7} {funct3 : BitVec 3} {i : RegIdx → RegIdx → RegIdx → Instr}
    {f : Word → Word → Word} (g : Word → Word → Word) (hselects : ArithRegSelects funct7 funct3 i)
    (hexec : ∀ rd rs1 rs2 s, exec (i rd rs1 rs2) s = commitReg rd (g (s.readReg rs1) (s.readReg rs2)) s)
    (hvalue : ∀ a b, g a b = f a b) : RegRule funct7 funct3 i f := by
  intro rd rs1 rs2 s
  constructor
  · exact decode_encodeR_arithReg hselects rs2 rs1 rd
  · rw [hexec, hvalue]
    exact completes_commitReg rd (f (s.readReg rs1) (s.readReg rs2)) s

/-- Settles O24: `regRule_of_commitReg` for each instruction, with the unit its meaning uses and that unit's value. -/
theorem arithRegisterResults : Obligations.ArithRegisterResults :=
  ⟨regRule_of_commitReg aluAdd arithRegSelects_add (fun _ _ _ _ => rfl) aluAdd_eq_ofNat,
    regRule_of_commitReg aluSub arithRegSelects_sub (fun _ _ _ _ => rfl) aluSub_eq_ofInt,
    regRule_of_commitReg (fun a b => aluSll a (shamtReg b)) arithRegSelects_sll (fun _ _ _ _ => rfl) aluSll_shamtReg,
    regRule_of_commitReg aluSlt arithRegSelects_slt (fun _ _ _ _ => rfl) (fun _ _ => aluSlt_eq),
    regRule_of_commitReg aluSltu arithRegSelects_sltu (fun _ _ _ _ => rfl) (fun _ _ => aluSltu_eq),
    regRule_of_commitReg aluXor arithRegSelects_xor (fun _ _ _ _ => rfl) (fun _ _ => rfl),
    regRule_of_commitReg (fun a b => aluSrl a (shamtReg b)) arithRegSelects_srl (fun _ _ _ _ => rfl) aluSrl_shamtReg,
    regRule_of_commitReg (fun a b => aluSra a (shamtReg b)) arithRegSelects_sra (fun _ _ _ _ => rfl) aluSra_shamtReg,
    regRule_of_commitReg aluOr arithRegSelects_or (fun _ _ _ _ => rfl) (fun _ _ => rfl),
    regRule_of_commitReg aluAnd arithRegSelects_and (fun _ _ _ _ => rfl) (fun _ _ => rfl)⟩

end Sys2Proof.Machine
end

section
/-! PROOFS. FENCE and FENCE.I (`spec/48_fence.md` rules R165 and R166): the `funct3` that selects each (R71), what is
left alone by an instruction that only moves `pc`, and with both their results. -/

namespace Sys2Proof.Machine

/-! ## What `funct3` selects (R71) -/

theorem decodeFence_fence {w : Word} (h : funct3Field w = 0b000#3) :
    decodeFence w = .ok (.fence (rdField w) (rs1Field w) (immI w)) := by
  simp [decodeFence, h]

theorem decodeFence_fenceI {w : Word} (h : funct3Field w = 0b001#3) :
    decodeFence w = .ok (.fenceI (rdField w) (rs1Field w) (immI w)) := by
  simp [decodeFence, h]

/-- A word of this class and the I layout goes to the class's own table, which reads back the fields it was made of. -/
theorem decode_encodeI_fence {funct3 : BitVec 3} {i : RegIdx → RegIdx → BitVec 12 → Instr}
    (h : ∀ {w}, funct3Field w = funct3 → decodeFence w = .ok (i (rdField w) (rs1Field w) (immI w)))
    (imm : BitVec 12) (rs1 rd : RegIdx) : decode (encodeI imm rs1 funct3 rd .fence) = .ok (i rd rs1 imm) := by
  have htable := h (funct3Field_encodeI imm rs1 funct3 rd .fence)
  simpa only [decode, opcodeField_encodeI, opClassOf_code, rdField_encodeI, rs1Field_encodeI, immI_encodeI]
    using htable

/-! ## Only `pc` moves -/

/-- A new `pc` touches no register, no byte of memory and no control field. -/
theorem movedPc_setPc (s : State) (p : Word) : MovedPc s (s.setPc p) p where
  regs _ := rfl
  pc := rfl
  bytes _ := rfl
  control := by constructor <;> rfl

/-- What every instruction that ends in `commitNothing` does. -/
theorem completes_commitNothing (s : State) : Completes (commitNothing s) (fun t => MovedPc s t (s.pc + 4#32)) :=
  ⟨s.advance, rfl, movedPc_setPc s (s.pc + 4#32)⟩

/-- Settles O25: each word is the I layout of its class under its own `funct3`; both meanings commit nothing, whatever
the fields hold. -/
theorem fenceResults : Obligations.FenceResults := fun rd rs1 imm s =>
  ⟨⟨decode_encodeI_fence decodeFence_fence imm rs1 rd, completes_commitNothing s⟩,
    ⟨decode_encodeI_fence decodeFence_fenceI imm rs1 rd, completes_commitNothing s⟩⟩

end Sys2Proof.Machine
end

section
/-! PROOFS. `ERR_UNKNOWN_INSTR` is never raised (`spec/60_exceptions.md` rule R189): the codes an instruction and a step
can latch, and what every step keeps carried along a run. -/

namespace Sys2Proof.Machine

variable {s t : State} {code : ErrCode} {info : Word}

/-! ## The codes that are latched -/

/-- An instruction leaves the latch alone, or raises one of the errors of `execute` (R188, R190, R191). -/
theorem Effect.fault_cases (h : Effect s t) :
    t.fault = s.fault ∨
      t.fault.code = .misalignedTarget ∨ t.fault.code = .memOob ∨ t.fault.code = .syscallUnknown := by
  cases h with
  | failed code info hcode => exact .inr hcode
  | wrote | moved | stored | hostWrite | hostRead | exited | broke => left; simp

/-- A word that does not decode is one of the two decode errors (R186, R187). -/
theorem frontOfWord_fails {w : Word} (h : frontOfWord w = .fails code info) :
    code = .decodeOpcode ∨ code = .decodeSubselect := by
  unfold frontOfWord at h
  split at h <;> cases h
  · exact .inl rfl
  · exact .inr rfl

/-- What fails before `execute` is decode or the fetch (R81, R186, R187, R190). -/
theorem front_fails (h : s.front = .fails code info) :
    code = .decodeOpcode ∨ code = .decodeSubselect ∨ code = .memOob := by
  unfold State.front at h
  split at h; · cases h
  split at h; · cases h
  split at h; · cases h
  split at h
  · split at h
    · exact (frontOfWord_fails h).imp_right .inl
    · cases h
      exact .inr (.inr rfl)
  · cases h

/-- A step leaves the latch alone, or raises one of the five errors that stand beside `ERR_UNKNOWN_INSTR` (R185). -/
theorem step_fault_cases (h : step s = .next t) :
    t.fault = s.fault ∨ t.fault.code = .decodeOpcode ∨ t.fault.code = .decodeSubselect ∨
      t.fault.code = .misalignedTarget ∨ t.fault.code = .memOob ∨ t.fault.code = .syscallUnknown := by
  unfold step cycle at h
  split at h
  case h_1 =>
    cases h
    exact .inl rfl
  case h_2 cause _ =>
    cases h
    exact .inl rfl
  case h_3 code info hfront =>
    cases h
    obtain hc | hc | hc := front_fails hfront
    · exact .inr (.inl hc)
    · exact .inr (.inr (.inl hc))
    · exact .inr (.inr (.inr (.inr (.inl hc))))
  case h_4 i _ => exact (exec_effect h).fault_cases.imp_right fun hc => .inr (.inr hc)

/-- A step out of a state without `ERR_UNKNOWN_INSTR` latched does not latch it. -/
theorem step_keeps_known (hs : s.fault.code ≠ .unknownInstr) (h : step s = .next t) :
    t.fault.code ≠ .unknownInstr := by
  obtain hf | hc | hc | hc | hc | hc := step_fault_cases h
  · rwa [hf]
  all_goals simp [hc]

/-! ## Along a run -/

/-- What every step of a machine keeps, a run of any number of its steps keeps. -/
theorem run_keeps {M : Host.Core} {P : M.State → Prop} (hstep : ∀ {s t : M.State}, P s → M.step s = .next t → P t)
    (n : Nat) {s t : M.State} (hs : P s) (h : M.run n s = .next t) : P t := by
  induction n generalizing s with
  | zero =>
    cases h
    exact hs
  | succ n ih =>
    unfold Host.Core.run at h
    split at h
    case h_1 s' hfirst => exact ih (hstep hs hfirst) h
    all_goals cases h

/-- Settles O42: the code is not latched at the start and no step latches it, so no run does. -/
theorem unknownInstructionIsUnreachable : Obligations.UnknownInstructionIsUnreachable := fun n _ _ hs h =>
  run_keeps (M := Sys2Proof.core) step_keeps_known n hs h

end Sys2Proof.Machine
end

section
/-! PROOFS. The decoder class by class: the table an opcode sends a word to (`spec/30_encoding.md` rule R64), and the
instruction each selector of that table gives (R66 to R69, R72). -/

namespace Sys2Proof.Machine

/-! ## The table of a class -/

/-- R64: what `decode` does with a word of the class. -/
def classTable : OpClass → Word → Except DecodeError Instr
  | .lui, w => .ok (.lui (rdField w) (immU w))
  | .auipc, w => .ok (.auipc (rdField w) (immU w))
  | .jal, w => .ok (.jal (rdField w) (immJ w))
  | .jalr, w => decodeJalr w
  | .branch, w => decodeBranch w
  | .load, w => decodeLoad w
  | .store, w => decodeStore w
  | .arithImm, w => decodeArithImm w
  | .arithReg, w => decodeArithReg w
  | .fence, w => decodeFence w
  | .system, w => decodeSystem w

theorem decode_eq_classTable {w : Word} {c : OpClass} (h : opcodeField w = c.code) : decode w = classTable c w := by
  rw [decode, h, opClassOf_code]
  cases c <;> rfl

/-- A word decodes to other than the opcode error only by the table of its class. -/
theorem decode_cases (w : Word) :
    decode w = .error .opcode ∨ ∃ c : OpClass, opcodeField w = c.code ∧ decode w = classTable c w := by
  cases h : opClassOf (opcodeField w) with
  | none => exact .inl (decode_eq_opcode_iff.mpr h)
  | some c =>
    have hc := (code_of_opClassOf h).symm
    exact .inr ⟨c, hc, decode_eq_classTable hc⟩

/-! ## What the selectors select -/

/-- In the class's table `funct3` alone gives the instruction `i` of the word. -/
def Funct3Selects (c : OpClass) (funct3 : BitVec 3) (i : Word → Instr) : Prop :=
  ∀ {w}, funct3Field w = funct3 → classTable c w = .ok (i w)

/-- In the class's table `funct3` and `funct7` give the instruction `i` of the word. -/
def Funct37Selects (c : OpClass) (funct7 : BitVec 7) (funct3 : BitVec 3) (i : Word → Instr) : Prop :=
  ∀ {w}, funct3Field w = funct3 → funct7Field w = funct7 → classTable c w = .ok (i w)

theorem selects_jalr : Funct3Selects .jalr 0b000#3 fun w => .jalr (rdField w) (rs1Field w) (immI w) :=
  fun h => by simp [classTable, decodeJalr, h]

theorem selects_beq : Funct3Selects .branch 0b000#3 fun w => .beq (rs1Field w) (rs2Field w) (immB w) :=
  fun h => by simp [classTable, decodeBranch, h]

theorem selects_bne : Funct3Selects .branch 0b001#3 fun w => .bne (rs1Field w) (rs2Field w) (immB w) :=
  fun h => by simp [classTable, decodeBranch, h]

theorem selects_blt : Funct3Selects .branch 0b100#3 fun w => .blt (rs1Field w) (rs2Field w) (immB w) :=
  fun h => by simp [classTable, decodeBranch, h]

theorem selects_bge : Funct3Selects .branch 0b101#3 fun w => .bge (rs1Field w) (rs2Field w) (immB w) :=
  fun h => by simp [classTable, decodeBranch, h]

theorem selects_bltu : Funct3Selects .branch 0b110#3 fun w => .bltu (rs1Field w) (rs2Field w) (immB w) :=
  fun h => by simp [classTable, decodeBranch, h]

theorem selects_bgeu : Funct3Selects .branch 0b111#3 fun w => .bgeu (rs1Field w) (rs2Field w) (immB w) :=
  fun h => by simp [classTable, decodeBranch, h]

theorem selects_lb : Funct3Selects .load 0b000#3 fun w => .lb (rdField w) (rs1Field w) (immI w) :=
  fun h => by simp [classTable, decodeLoad, h]

theorem selects_lh : Funct3Selects .load 0b001#3 fun w => .lh (rdField w) (rs1Field w) (immI w) :=
  fun h => by simp [classTable, decodeLoad, h]

theorem selects_lw : Funct3Selects .load 0b010#3 fun w => .lw (rdField w) (rs1Field w) (immI w) :=
  fun h => by simp [classTable, decodeLoad, h]

theorem selects_lbu : Funct3Selects .load 0b100#3 fun w => .lbu (rdField w) (rs1Field w) (immI w) :=
  fun h => by simp [classTable, decodeLoad, h]

theorem selects_lhu : Funct3Selects .load 0b101#3 fun w => .lhu (rdField w) (rs1Field w) (immI w) :=
  fun h => by simp [classTable, decodeLoad, h]

theorem selects_sb : Funct3Selects .store 0b000#3 fun w => .sb (rs1Field w) (rs2Field w) (immS w) :=
  fun h => by simp [classTable, decodeStore, h]

theorem selects_sh : Funct3Selects .store 0b001#3 fun w => .sh (rs1Field w) (rs2Field w) (immS w) :=
  fun h => by simp [classTable, decodeStore, h]

theorem selects_sw : Funct3Selects .store 0b010#3 fun w => .sw (rs1Field w) (rs2Field w) (immS w) :=
  fun h => by simp [classTable, decodeStore, h]

theorem selects_slli :
    Funct37Selects .arithImm 0b0000000#7 0b001#3 fun w => .slli (rdField w) (rs1Field w) (immI w) :=
  fun h3 h7 => by simp [classTable, decodeArithImm, h3, h7]

theorem selects_srli :
    Funct37Selects .arithImm 0b0000000#7 0b101#3 fun w => .srli (rdField w) (rs1Field w) (immI w) :=
  fun h3 h7 => by simp [classTable, decodeArithImm, h3, h7]

theorem selects_srai :
    Funct37Selects .arithImm 0b0100000#7 0b101#3 fun w => .srai (rdField w) (rs1Field w) (immI w) :=
  fun h3 h7 => by simp [classTable, decodeArithImm, h3, h7]

/-! ## A word made of an instruction's fields -/

/-- A word of the I layout under a selecting `funct3` decodes to the instruction of the fields it was made of. -/
theorem decode_encodeI {c : OpClass} {funct3 : BitVec 3} {i : RegIdx → RegIdx → BitVec 12 → Instr}
    (h : Funct3Selects c funct3 fun w => i (rdField w) (rs1Field w) (immI w)) (imm : BitVec 12) (rs1 rd : RegIdx) :
    decode (encodeI imm rs1 funct3 rd c) = .ok (i rd rs1 imm) := by
  rw [decode_eq_classTable (opcodeField_encodeI ..), h (funct3Field_encodeI ..)]
  simp only [rdField_encodeI, rs1Field_encodeI, immI_encodeI]

/-- The same for the shifts, whose immediate holds the second selector (R59, R69). -/
theorem decode_encodeI_shift {c : OpClass} {sel : BitVec 7} {funct3 : BitVec 3}
    {i : RegIdx → RegIdx → BitVec 12 → Instr}
    (h : Funct37Selects c sel funct3 fun w => i (rdField w) (rs1Field w) (immI w)) {imm : BitVec 12}
    (himm : shiftSelector imm sel = true) (rs1 rd : RegIdx) :
    decode (encodeI imm rs1 funct3 rd c) = .ok (i rd rs1 imm) := by
  have hsel : funct7Field (encodeI imm rs1 funct3 rd c) = sel := (funct7Field_encodeI ..).trans (beq_iff_eq.mp himm)
  rw [decode_eq_classTable (opcodeField_encodeI ..), h (funct3Field_encodeI ..) hsel]
  simp only [rdField_encodeI, rs1Field_encodeI, immI_encodeI]

/-- The S layout. -/
theorem decode_encodeS {c : OpClass} {funct3 : BitVec 3} {i : RegIdx → RegIdx → BitVec 12 → Instr}
    (h : Funct3Selects c funct3 fun w => i (rs1Field w) (rs2Field w) (immS w)) (imm : BitVec 12) (rs2 rs1 : RegIdx) :
    decode (encodeS imm rs2 rs1 funct3 c) = .ok (i rs1 rs2 imm) := by
  rw [decode_eq_classTable (opcodeField_encodeS ..), h (funct3Field_encodeS ..)]
  simp only [rs1Field_encodeS, rs2Field_encodeS, immS_encodeS]

/-- The B layout, which holds even offsets only (R55). -/
theorem decode_encodeB {c : OpClass} {funct3 : BitVec 3} {i : RegIdx → RegIdx → BitVec 13 → Instr}
    (h : Funct3Selects c funct3 fun w => i (rs1Field w) (rs2Field w) (immB w)) {imm : BitVec 13}
    (himm : evenOffset imm = true) (rs2 rs1 : RegIdx) :
    decode (encodeB imm rs2 rs1 funct3 c) = .ok (i rs1 rs2 imm) := by
  rw [decode_eq_classTable (opcodeField_encodeB ..), h (funct3Field_encodeB ..)]
  simp only [rs1Field_encodeB, rs2Field_encodeB, immB_encodeB _ _ _ _ _ himm]

/-- JAL, the one instruction of the J layout, which holds even offsets only (R57). -/
theorem decode_encodeJ_jal {imm : BitVec 21} (himm : evenOffset imm = true) (rd : RegIdx) :
    decode (encodeJ imm rd .jal) = .ok (.jal rd imm) := by
  rw [decode_eq_classTable (opcodeField_encodeJ ..), classTable, rdField_encodeJ, immJ_encodeJ _ _ _ himm]

end Sys2Proof.Machine
end

section
/-! PROOFS. The decoder and the encoder are inverse to each other (`spec/30_encoding.md` sections 2, 3, 5 and 6). -/

namespace Sys2Proof.Machine

/-- Settles O2: each instruction's word is its layout under the selectors of its row, which the class's table reads
back. -/
theorem encodeThenDecode : Obligations.EncodeThenDecode
  | .lui rd imm, _ => decode_encodeU_lui imm rd
  | .auipc rd imm, _ => decode_encodeU_auipc imm rd
  | .jal rd _, h => decode_encodeJ_jal h rd
  | .jalr rd rs1 imm, _ => decode_encodeI selects_jalr imm rs1 rd
  | .beq rs1 rs2 _, h => decode_encodeB selects_beq h rs2 rs1
  | .bne rs1 rs2 _, h => decode_encodeB selects_bne h rs2 rs1
  | .blt rs1 rs2 _, h => decode_encodeB selects_blt h rs2 rs1
  | .bge rs1 rs2 _, h => decode_encodeB selects_bge h rs2 rs1
  | .bltu rs1 rs2 _, h => decode_encodeB selects_bltu h rs2 rs1
  | .bgeu rs1 rs2 _, h => decode_encodeB selects_bgeu h rs2 rs1
  | .lb rd rs1 imm, _ => decode_encodeI selects_lb imm rs1 rd
  | .lh rd rs1 imm, _ => decode_encodeI selects_lh imm rs1 rd
  | .lw rd rs1 imm, _ => decode_encodeI selects_lw imm rs1 rd
  | .lbu rd rs1 imm, _ => decode_encodeI selects_lbu imm rs1 rd
  | .lhu rd rs1 imm, _ => decode_encodeI selects_lhu imm rs1 rd
  | .sb rs1 rs2 imm, _ => decode_encodeS selects_sb imm rs2 rs1
  | .sh rs1 rs2 imm, _ => decode_encodeS selects_sh imm rs2 rs1
  | .sw rs1 rs2 imm, _ => decode_encodeS selects_sw imm rs2 rs1
  | .addi rd rs1 imm, _ => decode_encodeI (c := .arithImm) decodeArithImm_addi imm rs1 rd
  | .slti rd rs1 imm, _ => decode_encodeI (c := .arithImm) decodeArithImm_slti imm rs1 rd
  | .sltiu rd rs1 imm, _ => decode_encodeI (c := .arithImm) decodeArithImm_sltiu imm rs1 rd
  | .xori rd rs1 imm, _ => decode_encodeI (c := .arithImm) decodeArithImm_xori imm rs1 rd
  | .ori rd rs1 imm, _ => decode_encodeI (c := .arithImm) decodeArithImm_ori imm rs1 rd
  | .andi rd rs1 imm, _ => decode_encodeI (c := .arithImm) decodeArithImm_andi imm rs1 rd
  | .slli rd rs1 _, h => decode_encodeI_shift selects_slli h rs1 rd
  | .srli rd rs1 _, h => decode_encodeI_shift selects_srli h rs1 rd
  | .srai rd rs1 _, h => decode_encodeI_shift selects_srai h rs1 rd
  | .add rd rs1 rs2, _ => decode_encodeR_arithReg arithRegSelects_add rs2 rs1 rd
  | .sub rd rs1 rs2, _ => decode_encodeR_arithReg arithRegSelects_sub rs2 rs1 rd
  | .sll rd rs1 rs2, _ => decode_encodeR_arithReg arithRegSelects_sll rs2 rs1 rd
  | .slt rd rs1 rs2, _ => decode_encodeR_arithReg arithRegSelects_slt rs2 rs1 rd
  | .sltu rd rs1 rs2, _ => decode_encodeR_arithReg arithRegSelects_sltu rs2 rs1 rd
  | .xor rd rs1 rs2, _ => decode_encodeR_arithReg arithRegSelects_xor rs2 rs1 rd
  | .srl rd rs1 rs2, _ => decode_encodeR_arithReg arithRegSelects_srl rs2 rs1 rd
  | .sra rd rs1 rs2, _ => decode_encodeR_arithReg arithRegSelects_sra rs2 rs1 rd
  | .or rd rs1 rs2, _ => decode_encodeR_arithReg arithRegSelects_or rs2 rs1 rd
  | .and rd rs1 rs2, _ => decode_encodeR_arithReg arithRegSelects_and rs2 rs1 rd
  | .fence rd rs1 imm, _ => decode_encodeI_fence decodeFence_fence imm rs1 rd
  | .fenceI rd rs1 imm, _ => decode_encodeI_fence decodeFence_fenceI imm rs1 rd
  | .ecall, _ => by decide
  | .ebreak, _ => by decide

/-! ## From the word to the instruction and back -/

/-- If the answer is an instruction, it is well formed and `w` is its word. -/
def Reencodes (w : Word) (r : Except DecodeError Instr) : Prop := ∀ i, r = .ok i → i.wf = true ∧ encode i = w

variable {w : Word}

theorem reencodes_error (e : DecodeError) : Reencodes w (.error e) := by
  rintro _ ⟨⟩

theorem reencodes_ok {i : Instr} (hwf : i.wf = true) (hw : encode i = w) : Reencodes w (.ok i) := by
  rintro _ ⟨⟩
  exact ⟨hwf, hw⟩

/-- A row of a table: the instruction where its selectors hold, the rows after it where not. -/
theorem reencodes_row {P : Prop} [Decidable P] {i : Instr} {r : Except DecodeError Instr}
    (hrow : P → i.wf = true ∧ encode i = w) (hrest : Reencodes w r) : Reencodes w (if P then .ok i else r) := by
  split
  · next hP => exact reencodes_ok (hrow hP).1 (hrow hP).2
  · exact hrest

/-- The I layout under the `funct3` of its row. -/
theorem encodeI_row {c : OpClass} {funct3 : BitVec 3} (hc : c.code = opcodeField w) (h : funct3Field w = funct3) :
    encodeI (immI w) (rs1Field w) funct3 (rdField w) c = w := h ▸ encodeI_fields hc

theorem encodeS_row {c : OpClass} {funct3 : BitVec 3} (hc : c.code = opcodeField w) (h : funct3Field w = funct3) :
    encodeS (immS w) (rs2Field w) (rs1Field w) funct3 c = w := h ▸ encodeS_fields hc

theorem encodeB_row {c : OpClass} {funct3 : BitVec 3} (hc : c.code = opcodeField w) (h : funct3Field w = funct3) :
    encodeB (immB w) (rs2Field w) (rs1Field w) funct3 c = w := h ▸ encodeB_fields hc

theorem encodeR_row {c : OpClass} {funct7 : BitVec 7} {funct3 : BitVec 3} (hc : c.code = opcodeField w)
    (h : funct3Field w = funct3 ∧ funct7Field w = funct7) :
    encodeR funct7 (rs2Field w) (rs1Field w) funct3 (rdField w) c = w := h.1 ▸ h.2 ▸ encodeR_fields hc

/-- R59: the shift selector of the immediate is the word's `funct7`. -/
theorem shiftSelector_immI {sel : BitVec 7} (h : funct7Field w = sel) : shiftSelector (immI w) sel = true :=
  beq_iff_eq.mpr ((immI_slice_hi w).trans h)

theorem reencodes_branch (hc : OpClass.branch.code = opcodeField w) : Reencodes w (decodeBranch w) := by
  iterate 6 refine reencodes_row (fun h => ⟨evenOffset_immB w, encodeB_row hc h⟩) ?_
  exact reencodes_error _

theorem reencodes_load (hc : OpClass.load.code = opcodeField w) : Reencodes w (decodeLoad w) := by
  iterate 5 refine reencodes_row (fun h => ⟨rfl, encodeI_row hc h⟩) ?_
  exact reencodes_error _

theorem reencodes_store (hc : OpClass.store.code = opcodeField w) : Reencodes w (decodeStore w) := by
  iterate 3 refine reencodes_row (fun h => ⟨rfl, encodeS_row hc h⟩) ?_
  exact reencodes_error _

theorem reencodes_arithImm (hc : OpClass.arithImm.code = opcodeField w) : Reencodes w (decodeArithImm w) := by
  iterate 6 refine reencodes_row (fun h => ⟨rfl, encodeI_row hc h⟩) ?_
  iterate 3 refine reencodes_row (fun h => ⟨shiftSelector_immI h.2, encodeI_row hc h.1⟩) ?_
  exact reencodes_error _

theorem reencodes_arithReg (hc : OpClass.arithReg.code = opcodeField w) : Reencodes w (decodeArithReg w) := by
  iterate 10 refine reencodes_row (fun h => ⟨rfl, encodeR_row hc h⟩) ?_
  exact reencodes_error _

theorem reencodes_fence (hc : OpClass.fence.code = opcodeField w) : Reencodes w (decodeFence w) := by
  iterate 2 refine reencodes_row (fun h => ⟨rfl, encodeI_row hc h⟩) ?_
  exact reencodes_error _

theorem reencodes_system : Reencodes w (decodeSystem w) := by
  iterate 2 refine reencodes_row (fun h => ⟨rfl, h.symm⟩) ?_
  exact reencodes_error _

theorem reencodes_classTable {c : OpClass} (hc : c.code = opcodeField w) : Reencodes w (classTable c w) := by
  cases c with
  | lui => exact reencodes_ok rfl (encodeU_fields hc)
  | auipc => exact reencodes_ok rfl (encodeU_fields hc)
  | jal => exact reencodes_ok (evenOffset_immJ w) (encodeJ_fields hc)
  | jalr => exact reencodes_row (fun h => ⟨rfl, encodeI_row hc h⟩) (reencodes_error _)
  | branch => exact reencodes_branch hc
  | load => exact reencodes_load hc
  | store => exact reencodes_store hc
  | arithImm => exact reencodes_arithImm hc
  | arithReg => exact reencodes_arithReg hc
  | fence => exact reencodes_fence hc
  | system => exact reencodes_system

/-- Settles O3: a word that decodes does so by the table of its class, and every row of every table gives an
instruction made of all the word's fields. -/
theorem decodeThenEncode : Obligations.DecodeThenEncode := fun w i h => by
  obtain herr | ⟨c, hc, htable⟩ := decode_cases w
  · cases herr.symm.trans h
  · exact reencodes_classTable hc.symm i (htable.symm.trans h)

end Sys2Proof.Machine
end

section
/-! PROOFS. The decoder and the opcode table (`spec/30_encoding.md` sections 6 and 7): a word decodes to a mnemonic
exactly when it matches the mnemonic's row. -/

namespace Sys2Proof.Machine

/-- The word of every well-formed instruction matches its row. -/
theorem encode_matches_row : ∀ i : Instr, Laws.TableRow.Statement i
  | .lui _ _ => Laws.TableRow.lui _ _
  | .auipc _ _ => Laws.TableRow.auipc _ _
  | .jal _ _ => Laws.TableRow.jal _ _
  | .jalr _ _ _ => Laws.TableRow.jalr _ _ _
  | .beq _ _ _ => Laws.TableRow.beq _ _ _
  | .bne _ _ _ => Laws.TableRow.bne _ _ _
  | .blt _ _ _ => Laws.TableRow.blt _ _ _
  | .bge _ _ _ => Laws.TableRow.bge _ _ _
  | .bltu _ _ _ => Laws.TableRow.bltu _ _ _
  | .bgeu _ _ _ => Laws.TableRow.bgeu _ _ _
  | .lb _ _ _ => Laws.TableRow.lb _ _ _
  | .lh _ _ _ => Laws.TableRow.lh _ _ _
  | .lw _ _ _ => Laws.TableRow.lw _ _ _
  | .lbu _ _ _ => Laws.TableRow.lbu _ _ _
  | .lhu _ _ _ => Laws.TableRow.lhu _ _ _
  | .sb _ _ _ => Laws.TableRow.sb _ _ _
  | .sh _ _ _ => Laws.TableRow.sh _ _ _
  | .sw _ _ _ => Laws.TableRow.sw _ _ _
  | .addi _ _ _ => Laws.TableRow.addi _ _ _
  | .slti _ _ _ => Laws.TableRow.slti _ _ _
  | .sltiu _ _ _ => Laws.TableRow.sltiu _ _ _
  | .xori _ _ _ => Laws.TableRow.xori _ _ _
  | .ori _ _ _ => Laws.TableRow.ori _ _ _
  | .andi _ _ _ => Laws.TableRow.andi _ _ _
  | .slli _ _ _ => Laws.TableRow.slli _ _ _
  | .srli _ _ _ => Laws.TableRow.srli _ _ _
  | .srai _ _ _ => Laws.TableRow.srai _ _ _
  | .add _ _ _ => Laws.TableRow.add _ _ _
  | .sub _ _ _ => Laws.TableRow.sub _ _ _
  | .sll _ _ _ => Laws.TableRow.sll _ _ _
  | .slt _ _ _ => Laws.TableRow.slt _ _ _
  | .sltu _ _ _ => Laws.TableRow.sltu _ _ _
  | .xor _ _ _ => Laws.TableRow.xor _ _ _
  | .srl _ _ _ => Laws.TableRow.srl _ _ _
  | .sra _ _ _ => Laws.TableRow.sra _ _ _
  | .or _ _ _ => Laws.TableRow.or _ _ _
  | .and _ _ _ => Laws.TableRow.and _ _ _
  | .fence _ _ _ => Laws.TableRow.fence _ _ _
  | .fenceI _ _ _ => Laws.TableRow.fenceI _ _ _
  | .ecall => Laws.TableRow.ecall
  | .ebreak => Laws.TableRow.ebreak

/-- The word decodes to an instruction of the mnemonic. -/
def DecodesTo (w : Word) (m : Mnemonic) : Prop := ∃ i, decode w = .ok i ∧ i.mnemonic = m

variable {w p : Word}

/-- A row that fixes the opcode and `funct3`: the two select in the class's table. -/
theorem decodesTo_of_matches_707F {c : OpClass} {funct3 : BitVec 3} {i : Word → Instr} {m : Mnemonic}
    (hsel : Funct3Selects c funct3 i) (hp : p &&& 0x0000707F#32 = p)
    (hfields : opcodeField p = c.code ∧ funct3Field p = funct3) (hm : (i w).mnemonic = m)
    (h : w &&& 0x0000707F#32 = p) : DecodesTo w m := by
  obtain ⟨hop, h3⟩ := (matches_707F hp).mp h
  exact ⟨_, (decode_eq_classTable (hop.trans hfields.1)).trans (hsel (h3.trans hfields.2)), hm⟩

/-- A row that fixes the opcode, `funct3` and `funct7`: the three select in the class's table. -/
theorem decodesTo_of_matches_FE00707F {c : OpClass} {funct7 : BitVec 7} {funct3 : BitVec 3} {i : Word → Instr}
    {m : Mnemonic} (hsel : Funct37Selects c funct7 funct3 i) (hp : p &&& 0xFE00707F#32 = p)
    (hfields : opcodeField p = c.code ∧ funct3Field p = funct3 ∧ funct7Field p = funct7) (hm : (i w).mnemonic = m)
    (h : w &&& 0xFE00707F#32 = p) : DecodesTo w m := by
  obtain ⟨hop, h3, h7⟩ := (matches_FE00707F hp).mp h
  exact ⟨_, (decode_eq_classTable (hop.trans hfields.1)).trans (hsel (h3.trans hfields.2.1) (h7.trans hfields.2.2)), hm⟩

/-- A row that fixes the opcode alone. -/
theorem decodesTo_of_matches_7F (c : OpClass) {i : Word → Instr} {m : Mnemonic}
    (hsel : ∀ w, classTable c w = .ok (i w)) (hp : p &&& 0x0000007F#32 = p) (hop : opcodeField p = c.code)
    (hm : (i w).mnemonic = m) (h : w &&& 0x0000007F#32 = p) : DecodesTo w m :=
  ⟨_, (decode_eq_classTable (((matches_7F hp).mp h).trans hop)).trans (hsel w), hm⟩

/-- A row that fixes the whole word (R74). -/
theorem decodesTo_of_matches_all {i : Instr} (hp : decode p = .ok i) (h : w &&& 0xFFFFFFFF#32 = p) :
    DecodesTo w i.mnemonic := by
  obtain rfl : w = p := by rwa [show (0xFFFFFFFF#32 : Word) = BitVec.allOnes 32 from rfl, BitVec.and_allOnes] at h
  exact ⟨i, hp, rfl⟩

/-- A word that matches a row decodes to the row's mnemonic: the fields the row fixes are the tables' selectors. -/
theorem decodesTo_of_matches_row :
    ∀ m : Mnemonic, w &&& m.row.mask = m.row.pattern → DecodesTo w m
  | .lui => decodesTo_of_matches_7F .lui (fun _ => rfl) (by decide) (by decide) rfl
  | .auipc => decodesTo_of_matches_7F .auipc (fun _ => rfl) (by decide) (by decide) rfl
  | .jal => decodesTo_of_matches_7F .jal (fun _ => rfl) (by decide) (by decide) rfl
  | .jalr => decodesTo_of_matches_707F selects_jalr (by decide) (by decide) rfl
  | .beq => decodesTo_of_matches_707F selects_beq (by decide) (by decide) rfl
  | .bne => decodesTo_of_matches_707F selects_bne (by decide) (by decide) rfl
  | .blt => decodesTo_of_matches_707F selects_blt (by decide) (by decide) rfl
  | .bge => decodesTo_of_matches_707F selects_bge (by decide) (by decide) rfl
  | .bltu => decodesTo_of_matches_707F selects_bltu (by decide) (by decide) rfl
  | .bgeu => decodesTo_of_matches_707F selects_bgeu (by decide) (by decide) rfl
  | .lb => decodesTo_of_matches_707F selects_lb (by decide) (by decide) rfl
  | .lh => decodesTo_of_matches_707F selects_lh (by decide) (by decide) rfl
  | .lw => decodesTo_of_matches_707F selects_lw (by decide) (by decide) rfl
  | .lbu => decodesTo_of_matches_707F selects_lbu (by decide) (by decide) rfl
  | .lhu => decodesTo_of_matches_707F selects_lhu (by decide) (by decide) rfl
  | .sb => decodesTo_of_matches_707F selects_sb (by decide) (by decide) rfl
  | .sh => decodesTo_of_matches_707F selects_sh (by decide) (by decide) rfl
  | .sw => decodesTo_of_matches_707F selects_sw (by decide) (by decide) rfl
  | .addi => decodesTo_of_matches_707F (c := .arithImm) decodeArithImm_addi (by decide) (by decide) rfl
  | .slti => decodesTo_of_matches_707F (c := .arithImm) decodeArithImm_slti (by decide) (by decide) rfl
  | .sltiu => decodesTo_of_matches_707F (c := .arithImm) decodeArithImm_sltiu (by decide) (by decide) rfl
  | .xori => decodesTo_of_matches_707F (c := .arithImm) decodeArithImm_xori (by decide) (by decide) rfl
  | .ori => decodesTo_of_matches_707F (c := .arithImm) decodeArithImm_ori (by decide) (by decide) rfl
  | .andi => decodesTo_of_matches_707F (c := .arithImm) decodeArithImm_andi (by decide) (by decide) rfl
  | .slli => decodesTo_of_matches_FE00707F selects_slli (by decide) (by decide) rfl
  | .srli => decodesTo_of_matches_FE00707F selects_srli (by decide) (by decide) rfl
  | .srai => decodesTo_of_matches_FE00707F selects_srai (by decide) (by decide) rfl
  | .add => decodesTo_of_matches_FE00707F (c := .arithReg) (arithRegSelects_add _) (by decide) (by decide) rfl
  | .sub => decodesTo_of_matches_FE00707F (c := .arithReg) (arithRegSelects_sub _) (by decide) (by decide) rfl
  | .sll => decodesTo_of_matches_FE00707F (c := .arithReg) (arithRegSelects_sll _) (by decide) (by decide) rfl
  | .slt => decodesTo_of_matches_FE00707F (c := .arithReg) (arithRegSelects_slt _) (by decide) (by decide) rfl
  | .sltu => decodesTo_of_matches_FE00707F (c := .arithReg) (arithRegSelects_sltu _) (by decide) (by decide) rfl
  | .xor => decodesTo_of_matches_FE00707F (c := .arithReg) (arithRegSelects_xor _) (by decide) (by decide) rfl
  | .srl => decodesTo_of_matches_FE00707F (c := .arithReg) (arithRegSelects_srl _) (by decide) (by decide) rfl
  | .sra => decodesTo_of_matches_FE00707F (c := .arithReg) (arithRegSelects_sra _) (by decide) (by decide) rfl
  | .or => decodesTo_of_matches_FE00707F (c := .arithReg) (arithRegSelects_or _) (by decide) (by decide) rfl
  | .and => decodesTo_of_matches_FE00707F (c := .arithReg) (arithRegSelects_and _) (by decide) (by decide) rfl
  | .fence => decodesTo_of_matches_707F (c := .fence) decodeFence_fence (by decide) (by decide) rfl
  | .fenceI => decodesTo_of_matches_707F (c := .fence) decodeFence_fenceI (by decide) (by decide) rfl
  | .ecall => decodesTo_of_matches_all (i := .ecall) (by decide)
  | .ebreak => decodesTo_of_matches_all (i := .ebreak) (by decide)

/-- Settles O4: a word that decodes is the word of its instruction (`decodeThenEncode`), which matches its row; and a
word that matches a row has the row's selectors. -/
theorem decodeFollowsOpcodeTable : Obligations.DecodeFollowsOpcodeTable := fun w m => by
  constructor
  · rintro ⟨i, hi, rfl⟩
    obtain ⟨hwf, hw⟩ := decodeThenEncode w i hi
    exact hw ▸ encode_matches_row i hwf
  · exact decodesTo_of_matches_row m

end Sys2Proof.Machine
end

section
/-! PROOFS. The sub-selector errors (`spec/30_encoding.md` section 7): for each class the selectors its table has no row
for, and together the complete list. -/

namespace Sys2Proof.Machine

variable {w : Word}

/-- A table fails where no row's selectors hold. -/
theorem row_eq_error_iff {P : Prop} [Decidable P] {i : Instr} {r : Except DecodeError Instr} {e : DecodeError} :
    (if P then .ok i else r) = .error e ↔ ¬ P ∧ r = .error e := by
  split <;> simp_all

theorem funct3_cases : ∀ f : BitVec 3, f = 0b000#3 ∨ f = 0b001#3 ∨ f = 0b010#3 ∨ f = 0b011#3 ∨ f = 0b100#3 ∨
    f = 0b101#3 ∨ f = 0b110#3 ∨ f = 0b111#3 := by decide

theorem decodeJalr_eq_subselect_iff : decodeJalr w = .error .subselect ↔ funct3Field w ≠ 0b000#3 := by
  simp only [decodeJalr, row_eq_error_iff, and_true, ne_eq]

theorem decodeBranch_eq_subselect_iff :
    decodeBranch w = .error .subselect ↔ funct3Field w ∈ [0b010#3, 0b011#3] := by
  simp only [decodeBranch, row_eq_error_iff, and_true]
  generalize funct3Field w = f
  decide +revert

theorem decodeLoad_eq_subselect_iff :
    decodeLoad w = .error .subselect ↔ funct3Field w ∈ [0b011#3, 0b110#3, 0b111#3] := by
  simp only [decodeLoad, row_eq_error_iff, and_true]
  generalize funct3Field w = f
  decide +revert

theorem decodeStore_eq_subselect_iff :
    decodeStore w = .error .subselect ↔ funct3Field w ∈ [0b011#3, 0b100#3, 0b101#3, 0b110#3, 0b111#3] := by
  simp only [decodeStore, row_eq_error_iff, and_true]
  generalize funct3Field w = f
  decide +revert

/-- R69: only the two shift selectors of `funct3` look at `funct7`. -/
theorem decodeArithImm_eq_subselect_iff :
    decodeArithImm w = .error .subselect ↔
      funct3Field w = 0b001#3 ∧ funct7Field w ≠ 0b0000000#7 ∨
      funct3Field w = 0b101#3 ∧ funct7Field w ∉ [0b0000000#7, 0b0100000#7] := by
  simp only [decodeArithImm, row_eq_error_iff, and_true, List.mem_cons, List.not_mem_nil, or_false, not_or]
  obtain h | h | h | h | h | h | h | h := funct3_cases (funct3Field w) <;> simp [h]

/-- R70: `funct7 = 0000000` has every `funct3`, `0100000` two of them, another none. -/
theorem decodeArithReg_eq_subselect_iff :
    decodeArithReg w = .error .subselect ↔
      funct7Field w = 0b0100000#7 ∧ funct3Field w ∉ [0b000#3, 0b101#3] ∨
      funct7Field w ∉ [0b0000000#7, 0b0100000#7] := by
  simp only [decodeArithReg, row_eq_error_iff, and_true, List.mem_cons, List.not_mem_nil, or_false, not_or]
  by_cases h0 : funct7Field w = 0b0000000#7
  · obtain h | h | h | h | h | h | h | h := funct3_cases (funct3Field w) <;> simp [h, h0]
  by_cases h20 : funct7Field w = 0b0100000#7
  · simp [h20]
  · simp [h0, h20]

theorem decodeFence_eq_subselect_iff :
    decodeFence w = .error .subselect ↔ funct3Field w ∉ [0b000#3, 0b001#3] := by
  simp only [decodeFence, row_eq_error_iff, and_true]
  generalize funct3Field w = f
  decide +revert

theorem decodeSystem_eq_subselect_iff :
    decodeSystem w = .error .subselect ↔ w ∉ [0x00000073#32, 0x00100073#32] := by
  simp [decodeSystem, row_eq_error_iff]

/-- A sub-selector error is that of the table of the word's class. -/
theorem decode_eq_subselect_iff :
    decode w = .error .subselect ↔ ∃ c : OpClass, opcodeField w = c.code ∧ classTable c w = .error .subselect := by
  constructor
  · intro h
    obtain herr | ⟨c, hc, htable⟩ := decode_cases w
    · cases herr.symm.trans h
    · exact ⟨c, hc, htable.symm.trans h⟩
  · rintro ⟨c, hc, h⟩
    exact (decode_eq_classTable hc).trans h

theorem exists_opClass_iff {P : OpClass → Prop} : (∃ c, P c) ↔
    P .lui ∨ P .auipc ∨ P .jal ∨ P .jalr ∨ P .branch ∨ P .load ∨ P .store ∨ P .arithImm ∨ P .arithReg ∨ P .fence ∨
      P .system := by
  constructor
  · rintro ⟨c, hc⟩
    cases c <;> simp only [hc, true_or, or_true]
  · rintro (h | h | h | h | h | h | h | h | h | h | h) <;> exact ⟨_, h⟩

/-- Settles O6: class by class, the selectors the class's table has no row for; ARITH-IMM and ARITH-REG give two
conditions each, the three classes without a selector none. -/
theorem subselectErrorsExactly : Obligations.SubselectErrorsExactly := fun w => by
  rw [decode_eq_subselect_iff, exists_opClass_iff]
  simp only [classTable, reduceCtorEq, and_false, false_or, decodeJalr_eq_subselect_iff,
    decodeBranch_eq_subselect_iff, decodeLoad_eq_subselect_iff, decodeStore_eq_subselect_iff,
    decodeArithImm_eq_subselect_iff, decodeArithReg_eq_subselect_iff, decodeFence_eq_subselect_iff,
    decodeSystem_eq_subselect_iff, and_or_left, or_assoc]
  exact Iff.rfl

end Sys2Proof.Machine
end

section
/-! PROOFS. The fields and the immediates of a word as numbers (`spec/30_encoding.md` sections 1 and 2), and the words
the spec writes out. -/

namespace Sys2Proof.Machine

variable (w : Word)

/-- R54. -/
theorem toNat_immS : (immS w).toNat = w.toNat / 2 ^ 25 * 2 ^ 5 + w.toNat / 2 ^ 7 % 2 ^ 5 := by
  have := w.isLt
  rw [immS, toNat_app, slice_toNat, slice_toNat]
  omega

/-- R55. -/
theorem toNat_immB : (immB w).toNat = w.toNat / 2 ^ 31 * 2 ^ 12 + w.toNat / 2 ^ 7 % 2 * 2 ^ 11 +
    w.toNat / 2 ^ 25 % 2 ^ 6 * 2 ^ 5 + w.toNat / 2 ^ 8 % 2 ^ 4 * 2 := by
  have := w.isLt
  simp only [immB, toNat_app, slice_toNat, BitVec.toNat_ofNat]
  omega

/-- R57. -/
theorem toNat_immJ : (immJ w).toNat = w.toNat / 2 ^ 31 * 2 ^ 20 + w.toNat / 2 ^ 12 % 2 ^ 8 * 2 ^ 12 +
    w.toNat / 2 ^ 20 % 2 * 2 ^ 11 + w.toNat / 2 ^ 21 % 2 ^ 10 * 2 := by
  have := w.isLt
  simp only [immJ, toNat_app, slice_toNat, BitVec.toNat_ofNat]
  omega

/-- A slice that ends with the word's last bit is the quotient alone. -/
theorem toNat_slice_top {k n : Nat} (h : k + n = 32) : (w.extractLsb' k n).toNat = w.toNat / 2 ^ k := by
  rw [slice_toNat, Nat.mod_eq_of_lt]
  rw [Nat.div_lt_iff_lt_mul (Nat.two_pow_pos k), ← Nat.pow_add, Nat.add_comm, h]
  exact w.isLt

/-- Settles O7: every field is a slice; the immediates are put together from slices. -/
theorem fieldsAndImmediatesByPosition : Obligations.FieldsAndImmediatesByPosition := fun w =>
  ⟨(slice_toNat w 0 7).trans (by rw [Nat.pow_zero, Nat.div_one]), slice_toNat w 7 5, slice_toNat w 12 3,
    slice_toNat w 15 5, slice_toNat w 20 5, slice_toNat w 25 7, toNat_slice_top w rfl, toNat_immS w,
    toNat_immB w, toNat_slice_top w rfl, toNat_immJ w⟩

/-- Settles O1: the decoder evaluated on each of the fourteen words. -/
theorem writtenWordsDecode : Obligations.WrittenWordsDecode := by
  unfold Obligations.WrittenWordsDecode
  decide

end Sys2Proof.Machine
end

section
/-! PROOFS. The state's operations one by one (`spec/10_state.md` section 2, `spec/20_memory.md` sections 1, 2 and 8,
`spec/40_datapath.md` section 3): the register ports, the adder, the effective address and the bounded reads. -/

namespace Sys2Proof.Machine

/-- Settles O12: the laws of the two ports, register 0 apart. -/
theorem registerPortsHardwireZero : Obligations.RegisterPortsHardwireZero := fun s r v =>
  ⟨s.readReg_zero, s.writeReg_zero v, fun hr => (s.readReg_writeReg_same r v).trans (if_neg hr),
    fun _ hq => s.readReg_writeReg_other hq v⟩

/-- An integer read as a word is that integer modulo `2 ^ 32`. -/
theorem toNat_ofInt_word (x : Int) : ((BitVec.ofInt 32 x).toNat : Int) = x % 2 ^ 32 := by
  rw [BitVec.toNat_ofInt]
  exact Int.toNat_of_nonneg (Int.emod_nonneg x (by decide))

/-- R84: subtraction adds the complement and 1, the negation of two's complement. -/
theorem aluSub_eq_add_not (a b : Word) : aluSub a b = aluAdd a (aluAdd (~~~b) 1#32) := by
  rw [aluSub, aluAdd, aluAdd, ← BitVec.neg_eq_not_add, BitVec.sub_eq_add_neg]

/-- Settles O9: the sum as numbers, the difference as an integer (`aluSub_eq_ofInt`), and its complement form. -/
theorem adderWrapsModulo : Obligations.AdderWrapsModulo := fun a b =>
  ⟨BitVec.toNat_add a b, aluSub_eq_ofInt a b ▸ toNat_ofInt_word _, aluSub_eq_add_not a b⟩

/-- R44: the address as an integer read as a word; the sign extension keeps the displacement's value. -/
theorem effAddr_eq_ofInt (s : State) (rs1 : RegIdx) (imm : BitVec 12) :
    s.effAddr rs1 imm = BitVec.ofInt 32 ((s.readReg rs1).toNat + imm.toInt) := by
  rw [BitVec.ofInt_add, ← toInt_sext imm (by decide), BitVec.ofInt_toInt, BitVec.ofInt_natCast, BitVec.ofNat_toNat,
    BitVec.setWidth_eq, State.effAddr]

/-- Settles O15: the integer of `effAddr_eq_ofInt`, modulo `2 ^ 32`. -/
theorem effectiveAddressWraps : Obligations.EffectiveAddressWraps := fun s rs1 imm =>
  effAddr_eq_ofInt s rs1 imm ▸ toNat_ofInt_word _

/-- R34: the bound of an access as a proposition. -/
theorem ite_accessOk {α : Type} (s : State) (a : Word) (n : Nat) (x y : α) :
    (if s.accessOk a n then x else y) = if a.toNat + n ≤ s.params.memSize then x else y :=
  if_congr accessOk_iff rfl rfl

/-- Settles O14: each read is its bytes under `accessOk`. -/
theorem readsAreBoundedLittleEndian : Obligations.ReadsAreBoundedLittleEndian := fun s a =>
  ⟨ite_accessOk s a 1 _ _, ite_accessOk s a 2 _ _, ite_accessOk s a 4 _ _⟩

end Sys2Proof.Machine
end

section
/-! PROOFS. Memory writes and the reads after them (`spec/20_memory.md` sections 1 and 2): what a write leaves, the
word and the halfwords read back from its bytes. -/

namespace Sys2Proof.Machine

variable {s t : State} {a v : Word} {n : Nat}

/-! ## One write -/

theorem memWrite_of_fits (h : a.toNat + n ≤ s.params.memSize) (v : Word) :
    s.memWrite a n v = some { s with mem := s.mem.writeBytes a.toNat (lowBytes v n) } :=
  if_pos (accessOk_iff.mpr h)

theorem memWrite_of_not_fits (h : s.params.memSize < a.toNat + n) (v : Word) : s.memWrite a n v = none :=
  if_neg fun hok => absurd (accessOk_iff.mp hok) (Nat.not_le.mpr h)

theorem memWrite_eq_some (h : s.memWrite a n v = some t) :
    a.toNat + n ≤ s.params.memSize ∧ t = { s with mem := s.mem.writeBytes a.toNat (lowBytes v n) } := by
  by_cases hfits : a.toNat + n ≤ s.params.memSize
  · rw [memWrite_of_fits hfits] at h
    exact ⟨hfits, (Option.some.inj h).symm⟩
  · rw [memWrite_of_not_fits (Nat.not_le.mp hfits)] at h
    cases h

/-- R33: the bytes of the value stand at the address, the lowest first. -/
theorem read_writeBytes_lowBytes {m : Memory} (hm : m.wf = true) (a : Nat) (v : Word) {k : Nat} (hk : k < n) :
    (m.writeBytes a (lowBytes v n)).read (a + k) = v.extractLsb' (8 * k) 8 := by
  rw [Memory.read_writeBytes_inside hm (by simpa using hk)]
  simp [lowBytes]

/-! ## Reading a word's bytes back (R31) -/

/-- The four bytes at `a` are those of `v`. -/
def HoldsWord (m : Memory) (a : Nat) (v : Word) : Prop := ∀ k < 4, m.read (a + k) = v.extractLsb' (8 * k) 8

/-- Two neighbouring bytes of a word are a halfword of it. -/
theorem HoldsWord.half {m : Memory} {a : Nat} (h : HoldsWord m a v) {k : Nat} (hk : k < 3) :
    m.read (a + k + 1) ++ m.read (a + k) = v.extractLsb' (8 * k) 16 :=
  slice_join (8 * k) 8 (h (k + 1) (by omega)) (h k (by omega))

/-- The four bytes are the word. -/
theorem HoldsWord.word {m : Memory} {a : Nat} (h : HoldsWord m a v) :
    wordOfBytes (m.read a) (m.read (a + 1)) (m.read (a + 2)) (m.read (a + 3)) = v := by
  rw [show m.read a = v.extractLsb' 0 8 from h 0 (by decide), h 1 (by decide), h 2 (by decide), h 3 (by decide)]
  exact wordOfBytes_slices v

/-- A word in memory is what a word read at its address gives. -/
theorem memRead32_of_holdsWord (h : HoldsWord s.mem a.toNat v) (hfits : a.toNat + 4 ≤ s.params.memSize) :
    s.memRead32 a = some v :=
  (if_pos (accessOk_iff.mpr hfits)).trans (congrArg some h.word)

/-- An address inside an access of at most `2 ^ 32` bytes of memory does not wrap. -/
theorem toNat_add_ofNat {k size : Nat} (hk : k < n) (hfits : a.toNat + n ≤ size) (hsize : size ≤ 2 ^ 32) :
    (a + BitVec.ofNat 32 k).toNat = a.toNat + k := by
  rw [BitVec.toNat_add, BitVec.toNat_ofNat, Nat.add_mod_mod, Nat.mod_eq_of_lt (by omega)]

/-- Settles O13: the word's bytes stand at `a` (`HoldsWord`), and each narrower read lies inside the four. -/
theorem mixedWidthsSeeOneArray : Obligations.MixedWidthsSeeOneArray := by
  intro s t a v hm hsize h
  obtain ⟨hfits, rfl⟩ := memWrite_eq_some h
  have hv : HoldsWord (s.mem.writeBytes a.toNat (lowBytes v 4)) a.toNat v :=
    fun k hk => read_writeBytes_lowBytes hm a.toNat v hk
  refine ⟨fun k hk => ?_, fun k hk => ?_, memRead32_of_holdsWord hv hfits⟩
  · have ha := toNat_add_ofNat hk hfits hsize
    rw [State.memRead8, if_pos (accessOk_iff.mpr (by rw [ha]; dsimp only; omega)), ha, hv k hk]
  · have ha := toNat_add_ofNat (Nat.lt_succ_of_lt hk) hfits hsize
    rw [State.memRead16, if_pos (accessOk_iff.mpr (by rw [ha]; dsimp only; omega)), ha, hv.half hk]

end Sys2Proof.Machine
end

section
/-! PROOFS. Jumps and branches (`spec/42_jumps.md`, `spec/43_branches.md`): what `jumpAndLink` and `branchIf` answer for
an aligned and a misaligned target, and with the words of the layouts the results of JAL, JALR and the six branches. -/

namespace Sys2Proof.Machine

variable {s : State}

/-! ## The two operations -/

theorem completes_jumpAndLink {target : Word} (h : target.toNat % 4 = 0) (rd : RegIdx) (s : State) :
    Completes (jumpAndLink rd target s) fun t => WroteReg s t rd (s.pc + 4#32) target :=
  ⟨_, if_pos (aligned_iff.mpr h), wroteReg_writeReg_setPc s rd s.pcPlus4 target⟩

theorem raises_jumpAndLink {target : Word} (h : target.toNat % 4 ≠ 0) (rd : RegIdx) (s : State) :
    Raises (jumpAndLink rd target s) s .misalignedTarget target :=
  if_neg (mt aligned_iff.mp h)

theorem completes_branchIf_not_taken {c : Bool} (hc : ¬ c = true) (imm : BitVec 13) (s : State) :
    Completes (branchIf c imm s) fun t => MovedPc s t (s.pc + 4#32) :=
  ⟨_, if_neg hc, movedPc_setPc s (s.pc + 4#32)⟩

theorem completes_branchIf_taken {c : Bool} {imm : BitVec 13} (hc : c = true)
    (h : (s.pc + imm.signExtend 32).toNat % 4 = 0) :
    Completes (branchIf c imm s) fun t => MovedPc s t (s.pc + imm.signExtend 32) :=
  ⟨_, (if_pos hc).trans (if_pos (aligned_iff.mpr h)), movedPc_setPc s _⟩

theorem raises_branchIf {c : Bool} {imm : BitVec 13} (hc : c = true)
    (h : (s.pc + imm.signExtend 32).toNat % 4 ≠ 0) :
    Raises (branchIf c imm s) s .misalignedTarget (s.pc + imm.signExtend 32) :=
  (if_pos hc).trans (if_neg (mt aligned_iff.mp h))

/-! ## JAL -/

/-- A J word is the encoding of its offset, whatever its pieces. -/
theorem encodeJ_pieces (b20 : BitVec 1) (b19_12 : BitVec 8) (b11 : BitVec 1) (b10_1 : BitVec 10) (rd : RegIdx)
    (c : OpClass) :
    encodeJ (b20 ++ b19_12 ++ b11 ++ b10_1 ++ 0#1) rd c = b20 ++ b10_1 ++ b11 ++ b19_12 ++ rd ++ c.code := by
  have h20 : (b20 ++ b19_12 ++ b11 ++ b10_1 ++ 0#1).extractLsb' 20 1 = b20 :=
    (slice_hi _ 0#1 19 1).trans <| (slice_hi _ b10_1 9 1).trans <| (slice_hi _ b11 8 1).trans <|
      (slice_hi _ b19_12 0 1).trans <| slice_all b20
  have h1 : (b20 ++ b19_12 ++ b11 ++ b10_1 ++ 0#1).extractLsb' 1 10 = b10_1 :=
    (slice_hi _ 0#1 0 10).trans <| slice_lo _ b10_1
  have h11 : (b20 ++ b19_12 ++ b11 ++ b10_1 ++ 0#1).extractLsb' 11 1 = b11 :=
    (slice_hi _ 0#1 10 1).trans <| (slice_hi _ b10_1 0 1).trans <| slice_lo _ b11
  have h12 : (b20 ++ b19_12 ++ b11 ++ b10_1 ++ 0#1).extractLsb' 12 8 = b19_12 :=
    (slice_hi _ 0#1 11 8).trans <| (slice_hi _ b10_1 1 8).trans <| (slice_hi _ b11 0 8).trans <| slice_lo _ b19_12
  rw [encodeJ, h20, h1, h11, h12]

/-- Settles O17: the word is the J layout of the offset put together; the target decides between the two answers of
`jumpAndLink`. -/
theorem jalResult : Obligations.JalResult := by
  refine ⟨fun b20 b10_1 b11 b19_12 rd => ?_, fun rd imm s => ⟨fun h => ?_, fun h => ?_⟩⟩
  · have hword := decode_encodeJ_jal (imm := b20 ++ b19_12 ++ b11 ++ b10_1 ++ 0#1)
      (beq_iff_eq.mpr (slice_lo _ 0#1)) rd
    rwa [encodeJ_pieces] at hword
  · exact completes_jumpAndLink h rd s
  · exact raises_jumpAndLink h rd s

/-! ## JALR -/

/-- R106: with bit 0 dropped, the target is a multiple of 4 exactly when bit 1 is 0. -/
theorem clearBit0_mod_four (x : Word) : (x &&& 0xFFFFFFFE#32).toNat % 4 = 0 ↔ x.getLsbD 1 = false := by
  rw [← aligned_iff, aligned, beq_iff_eq]
  constructor
  · intro h
    simpa using congrArg (·.getLsbD 1) h
  · intro h
    ext i hi
    interval_cases i
    · simp
    · simpa using h

/-- Settles O18: the target is computed from the state before the step; bit 1 of the sum decides between the two
answers of `jumpAndLink`. -/
theorem jalrResult : Obligations.JalrResult := by
  refine fun rd rs1 imm s => ⟨decode_encodeI selects_jalr imm rs1 rd, fun h => ?_, fun h => ?_⟩
  · exact completes_jumpAndLink ((clearBit0_mod_four _).mpr h) rd s
  · have hbit : ¬ (s.readReg rs1 + imm.signExtend 32).getLsbD 1 = false := by simp only [h, reduceCtorEq, not_false_iff]
    exact raises_jumpAndLink (mt (clearBit0_mod_four _).mp hbit) rd s

/-! ## Branches -/

/-- A B word is the encoding of its offset, whatever its pieces. -/
theorem encodeB_pieces (b12 b11 : BitVec 1) (b10_5 : BitVec 6) (b4_1 : BitVec 4) (rs2 rs1 : RegIdx)
    (funct3 : BitVec 3) (c : OpClass) :
    encodeB (b12 ++ b11 ++ b10_5 ++ b4_1 ++ 0#1) rs2 rs1 funct3 c =
      b12 ++ b10_5 ++ rs2 ++ rs1 ++ funct3 ++ b4_1 ++ b11 ++ c.code := by
  have h12 : (b12 ++ b11 ++ b10_5 ++ b4_1 ++ 0#1).extractLsb' 12 1 = b12 :=
    (slice_hi _ 0#1 11 1).trans <| (slice_hi _ b4_1 7 1).trans <| (slice_hi _ b10_5 1 1).trans <|
      (slice_hi _ b11 0 1).trans <| slice_all b12
  have h5 : (b12 ++ b11 ++ b10_5 ++ b4_1 ++ 0#1).extractLsb' 5 6 = b10_5 :=
    (slice_hi _ 0#1 4 6).trans <| (slice_hi _ b4_1 0 6).trans <| slice_lo _ b10_5
  have h1 : (b12 ++ b11 ++ b10_5 ++ b4_1 ++ 0#1).extractLsb' 1 4 = b4_1 :=
    (slice_hi _ 0#1 0 4).trans <| slice_lo _ b4_1
  have h11 : (b12 ++ b11 ++ b10_5 ++ b4_1 ++ 0#1).extractLsb' 11 1 = b11 :=
    (slice_hi _ 0#1 10 1).trans <| (slice_hi _ b4_1 6 1).trans <| (slice_hi _ b10_5 0 1).trans <| slice_lo _ b11
  rw [encodeB, h12, h5, h1, h11]

/-- An instruction that `funct3` selects and whose meaning branches on a decision `c` that means `cond` follows the
branch rule (R110). -/
theorem branchRule_of_branchIf {funct3 : BitVec 3} {i : RegIdx → RegIdx → BitVec 13 → Instr}
    {c : Word → Word → Bool} {cond : Word → Word → Prop}
    (hsel : Funct3Selects .branch funct3 fun w => i (rs1Field w) (rs2Field w) (immB w))
    (hexec : ∀ rs1 rs2 imm s, exec (i rs1 rs2 imm) s = branchIf (c (s.readReg rs1) (s.readReg rs2)) imm s)
    (hcond : ∀ {a b}, c a b = true ↔ cond a b) : BranchRule funct3 i cond := by
  refine ⟨fun b12 b10_5 rs2 rs1 b4_1 b11 => ?_, fun rs1 rs2 imm s => ?_⟩
  · have hword := decode_encodeB hsel (imm := b12 ++ b11 ++ b10_5 ++ b4_1 ++ 0#1)
      (beq_iff_eq.mpr (slice_lo _ 0#1)) rs2 rs1
    rwa [encodeB_pieces] at hword
  · rw [hexec]
    exact ⟨fun h => completes_branchIf_not_taken (mt hcond.mp h) imm s,
      fun h halign => completes_branchIf_taken (hcond.mpr h) halign,
      fun h halign => raises_branchIf (hcond.mpr h) halign⟩

/-- Settles O19: `branchRule_of_branchIf` for each branch, with the comparator's condition. -/
theorem branchOutcomes : Obligations.BranchOutcomes :=
  ⟨branchRule_of_branchIf selects_beq (fun _ _ _ _ => rfl) condEq_iff,
    branchRule_of_branchIf selects_bne (fun _ _ _ _ => rfl) condNe_iff,
    branchRule_of_branchIf selects_blt (fun _ _ _ _ => rfl) condLt_iff,
    branchRule_of_branchIf selects_bge (fun _ _ _ _ => rfl) condGe_iff,
    branchRule_of_branchIf selects_bltu (fun _ _ _ _ => rfl) condLtu_iff,
    branchRule_of_branchIf selects_bgeu (fun _ _ _ _ => rfl) condGeu_iff⟩

end Sys2Proof.Machine
end

section
/-! PROOFS. The misalignment diagnostic (`spec/20_memory.md` section 3): when an access of a given size raises it. -/

namespace Sys2Proof.Machine

variable {s : State} {i : Instr} {a b : Access}

/-- R35, R203: the diagnostic names the access itself, when it is made and its address is no multiple of its size. -/
theorem warnMisaligned_iff (hi : dataAccess i s = some a) :
    warnMisaligned i s = some b ↔
      b = a ∧ a.addr.toNat + a.bytes ≤ s.params.memSize ∧ a.addr.toNat % a.bytes ≠ 0 := by
  rw [warnMisaligned, hi, Option.filter_some, Option.ite_none_right_eq_some, Bool.and_eq_true, accessOk_iff,
    decide_eq_true_iff, Option.some.injEq, and_comm, eq_comm]

/-- R36: two instructions that make the same access raise the same diagnostic. -/
theorem warnMisaligned_congr {j : Instr} (h : dataAccess i s = dataAccess j s) :
    warnMisaligned i s = warnMisaligned j s := by
  rw [warnMisaligned, warnMisaligned, h]

/-- A byte access is never misaligned. -/
theorem warnMisaligned_byte (hi : dataAccess i s = some a) (ha : a.bytes = 1) : warnMisaligned i s = none := by
  rw [Option.eq_none_iff_forall_ne_some]
  intro b hb
  exact ((warnMisaligned_iff hi).mp hb).2.2 (by rw [ha, Nat.mod_one])

/-- For an access inside memory only the alignment is left to decide. -/
theorem warnMisaligned_iff_of_fits (hi : dataAccess i s = some a)
    (hfits : a.addr.toNat + a.bytes ≤ s.params.memSize) :
    warnMisaligned i s = some a ↔ a.addr.toNat % a.bytes ≠ 0 := by
  rw [warnMisaligned_iff hi]
  exact ⟨fun h => h.2.2, fun h => ⟨rfl, hfits, h⟩⟩

/-- Settles O46: the word and the halfword accesses by `warnMisaligned_iff`; the others make the same access as one of
these, or one of a single byte. -/
theorem misalignmentDiagnosticRaised : Obligations.MisalignmentDiagnosticRaised := fun _ _ _ _ _ _ =>
  ⟨warnMisaligned_iff rfl, warnMisaligned_congr rfl, warnMisaligned_iff rfl, warnMisaligned_congr rfl,
    warnMisaligned_congr rfl, warnMisaligned_byte rfl rfl, warnMisaligned_byte rfl rfl, warnMisaligned_byte rfl rfl⟩

end Sys2Proof.Machine
end

section
/-! PROOFS. Loads and stores (`spec/44_loads.md`, `spec/45_stores.md`): what `loadTo` and `storeAt` answer inside and
beyond memory, and with them the results of the eight instructions. -/

namespace Sys2Proof.Machine

variable {s t : State} {a v : Word} {n : Nat}

/-! ## The five loads -/

theorem raises_loadTo {m : Nat} (rd : RegIdx) (ext : BitVec m → Word) (h : s.params.memSize < a.toNat + n)
    (x : BitVec m) : Raises (loadTo rd a (if s.accessOk a n then some x else none) ext s) s .memOob a := by
  rw [ite_accessOk, if_neg (Nat.not_le.mpr h)]
  rfl

theorem completes_loadTo {m : Nat} (rd : RegIdx) (ext : BitVec m → Word) (h : a.toNat + n ≤ s.params.memSize)
    (x : BitVec m) :
    Completes (loadTo rd a (if s.accessOk a n then some x else none) ext s)
      fun t => WroteReg s t rd (ext x) (s.pc + 4#32) := by
  rw [ite_accessOk, if_pos h]
  exact completes_commitReg rd (ext x) s

/-- R120: an instruction that `funct3` selects and whose meaning loads the `n` bytes `bytes` at the effective address,
extended by `ext`, follows the load rule. -/
theorem loadRule_of_loadTo {m : Nat} {funct3 : BitVec 3} {i : RegIdx → RegIdx → BitVec 12 → Instr}
    (bytes : Memory → Nat → BitVec m) (ext : BitVec m → Word)
    (hsel : Funct3Selects .load funct3 fun w => i (rdField w) (rs1Field w) (immI w))
    (hexec : ∀ rd rs1 imm s, exec (i rd rs1 imm) s =
      loadTo rd (s.effAddr rs1 imm)
        (if s.accessOk (s.effAddr rs1 imm) n then some (bytes s.mem (s.effAddr rs1 imm).toNat) else none) ext s)
    (haccess : ∀ rd rs1 imm s, dataAccess (i rd rs1 imm) s = some ⟨s.effAddr rs1 imm, n⟩) :
    LoadRule funct3 n i fun m a => ext (bytes m a) := by
  refine fun rd rs1 imm s => ⟨decode_encodeI hsel imm rs1 rd, rfl, fun hfits => ⟨?_, ?_⟩, fun h => ?_⟩
  · rw [hexec]
    exact completes_loadTo rd ext hfits _
  · exact warnMisaligned_iff_of_fits (haccess rd rs1 imm s) hfits
  · rw [hexec]
    exact raises_loadTo rd ext h _

/-- Settles O20: `loadRule_of_loadTo` for each load, with the bytes its read puts together. -/
theorem loadResults : Obligations.LoadResults :=
  ⟨loadRule_of_loadTo (fun m a => m.read a) sext selects_lb (fun _ _ _ _ => rfl) (fun _ _ _ _ => rfl),
    loadRule_of_loadTo (fun m a => m.read (a + 1) ++ m.read a) sext selects_lh (fun _ _ _ _ => rfl)
      (fun _ _ _ _ => rfl),
    loadRule_of_loadTo (fun m a => wordOfBytes (m.read a) (m.read (a + 1)) (m.read (a + 2)) (m.read (a + 3))) id
      selects_lw (fun _ _ _ _ => rfl) (fun _ _ _ _ => rfl),
    loadRule_of_loadTo (fun m a => m.read a) zext selects_lbu (fun _ _ _ _ => rfl) (fun _ _ _ _ => rfl),
    loadRule_of_loadTo (fun m a => m.read (a + 1) ++ m.read a) zext selects_lhu (fun _ _ _ _ => rfl)
      (fun _ _ _ _ => rfl)⟩

/-! ## The three stores -/

theorem storeAt_of_fits (h : a.toNat + n ≤ s.params.memSize) (v : Word) :
    storeAt a n v s = .next { s with mem := s.mem.writeBytes a.toNat (lowBytes v n) }.advance := by
  rw [storeAt, memWrite_of_fits h]

theorem raises_storeAt (h : s.params.memSize < a.toNat + n) (v : Word) : Raises (storeAt a n v s) s .memOob a := by
  rw [storeAt, memWrite_of_not_fits h]
  rfl

theorem completes_storeAt (hm : s.mem.wf = true) (h : a.toNat + n ≤ s.params.memSize) (v : Word) :
    Completes (storeAt a n v s) fun t => Stored s t a.toNat n v (s.pc + 4#32) :=
  ⟨_, storeAt_of_fits h v,
    { stored := fun _ hk => read_writeBytes_lowBytes hm a.toNat v hk
      outside := fun _ hb => Memory.read_writeBytes_outside (by rwa [length_lowBytes])
      regs := fun _ => rfl
      pc := rfl
      control := by constructor <;> rfl }⟩

/-- The S word of any two pieces of a displacement. -/
theorem encodeS_pieces (hi : BitVec 7) (lo : BitVec 5) (rs2 rs1 : RegIdx) (funct3 : BitVec 3) (c : OpClass) :
    encodeS (hi ++ lo) rs2 rs1 funct3 c = hi ++ rs2 ++ rs1 ++ funct3 ++ lo ++ c.code := by
  rw [encodeS, show (hi ++ lo).extractLsb' 5 7 = hi from (slice_hi hi lo 0 7).trans (slice_all hi), slice_lo]

/-- R130: an instruction that `funct3` selects and whose meaning stores `n` bytes at the effective address follows the
store rule. -/
theorem storeRule_of_storeAt {funct3 : BitVec 3} {i : RegIdx → RegIdx → BitVec 12 → Instr}
    (hsel : Funct3Selects .store funct3 fun w => i (rs1Field w) (rs2Field w) (immS w))
    (hexec : ∀ rs1 rs2 imm s, exec (i rs1 rs2 imm) s = storeAt (s.effAddr rs1 imm) n (s.readReg rs2) s)
    (haccess : ∀ rs1 rs2 imm s, dataAccess (i rs1 rs2 imm) s = some ⟨s.effAddr rs1 imm, n⟩) :
    StoreRule funct3 n i := by
  refine ⟨fun hi rs2 rs1 lo => ?_, fun rs1 rs2 imm s hm => ⟨rfl, fun hfits => ⟨?_, ?_⟩, fun h => ?_⟩⟩
  · have hword := decode_encodeS hsel (hi ++ lo) rs2 rs1
    rwa [encodeS_pieces] at hword
  · rw [hexec]
    exact completes_storeAt hm hfits (s.readReg rs2)
  · exact warnMisaligned_iff_of_fits (haccess rs1 rs2 imm s) hfits
  · rw [hexec]
    exact raises_storeAt h (s.readReg rs2)

/-- Settles O21: `storeRule_of_storeAt` for each store. -/
theorem storeResults : Obligations.StoreResults :=
  ⟨storeRule_of_storeAt selects_sb (fun _ _ _ _ => rfl) (fun _ _ _ _ => rfl),
    storeRule_of_storeAt selects_sh (fun _ _ _ _ => rfl) (fun _ _ _ _ => rfl),
    storeRule_of_storeAt selects_sw (fun _ _ _ _ => rfl) (fun _ _ _ _ => rfl)⟩

/-! ## A word stored and read again -/

theorem Stored.memRead32 {p : Word} (h : Stored s t a.toNat 4 v p) (hfits : a.toNat + 4 ≤ s.params.memSize) :
    t.memRead32 a = some v :=
  memRead32_of_holdsWord h.stored (by rwa [h.control.params])

/-- Settles O44: a store that latches no error stored its word, and a fetch is a word read at `pc`. -/
theorem fetchSeesTheStore : Obligations.FetchSeesTheStore := by
  intro s t rs1 rs2 imm hm _ hexec hok
  by_cases hfits : (s.effAddr rs1 imm).toNat + 4 ≤ s.params.memSize
  · obtain ⟨t', ht', hstored⟩ := completes_storeAt hm hfits (s.readReg rs2)
    cases ht'.symm.trans hexec
    exact hstored.memRead32 hfits
  · cases (raises_storeAt (Nat.not_le.mp hfits) (s.readReg rs2)).symm.trans hexec
    cases hok

/-- Settles O45: the load's base register and so its address are as before the store, and the word read there is the
word stored. -/
theorem storeThenLoadWord : Obligations.StoreThenLoadWord := by
  intro s rs1 rs2 rd imm hm hfits
  obtain ⟨t, ht, hstored⟩ := completes_storeAt hm hfits (s.readReg rs2)
  refine ⟨t, ht, ?_⟩
  have haddr : t.effAddr rs1 imm = s.effAddr rs1 imm := congrArg (· + sext imm) (hstored.regs rs1)
  obtain ⟨u, hu, hwrote⟩ := completes_commitReg rd (s.readReg rs2) t
  refine ⟨u, ?_, hwrote.result⟩
  calc exec (.lw rd rs1 imm) t
      = loadTo rd (t.effAddr rs1 imm) (t.memRead32 (t.effAddr rs1 imm)) id t := rfl
    _ = loadTo rd (s.effAddr rs1 imm) (some (s.readReg rs2)) id t := by rw [haddr, hstored.memRead32 hfits]
    _ = .next u := hu

end Sys2Proof.Machine
end

section
/-! PROOFS. SLLI, SRLI and SRAI (`spec/46_arith_immediate.md` rules R142 to R144): their words, the words with another
selector, and with the shift unit's values their results. -/

namespace Sys2Proof.Machine

/-- The I word of a selector and an amount. -/
theorem encodeI_shift_pieces (sel : BitVec 7) (shamt : BitVec 5) (rs1 : RegIdx) (funct3 : BitVec 3) (rd : RegIdx)
    (c : OpClass) : encodeI (sel ++ shamt) rs1 funct3 rd c = sel ++ shamt ++ rs1 ++ funct3 ++ rd ++ c.code := rfl

theorem shiftSelector_append (sel : BitVec 7) (shamt : BitVec 5) : shiftSelector (sel ++ shamt) sel = true :=
  beq_iff_eq.mpr ((slice_hi sel shamt 0 7).trans (slice_all sel))

theorem shamtImm_append (sel : BitVec 7) (shamt : BitVec 5) : shamtImm (sel ++ shamt) = shamt := slice_lo sel shamt

/-- R59, R135: an instruction that the two selectors select and whose meaning commits the shift `g` of `x[rs1]` by the
low five bits of the immediate follows the shift rule with any description `f` of that shift. -/
theorem shiftRule_of_commitReg {sel : BitVec 7} {funct3 : BitVec 3} {i : RegIdx → RegIdx → BitVec 12 → Instr}
    {f : Word → Nat → Word} (g : Word → BitVec 5 → Word)
    (hsel : Funct37Selects .arithImm sel funct3 fun w => i (rdField w) (rs1Field w) (immI w))
    (hexec : ∀ rd rs1 imm s, exec (i rd rs1 imm) s = commitReg rd (g (s.readReg rs1) (shamtImm imm)) s)
    (hvalue : ∀ a sh, g a sh = f a sh.toNat) : ShiftRule sel funct3 i f := by
  intro rd rs1 shamt s
  refine ⟨decode_encodeI_shift hsel (shiftSelector_append sel shamt) rs1 rd, ?_⟩
  rw [hexec, shamtImm_append, hvalue]
  exact completes_commitReg rd (f (s.readReg rs1) shamt.toNat) s

/-- R77: a selector outside the rows of its `funct3` is an error. -/
theorem decode_shift_eq_subselect {sel : BitVec 7} {funct3 : BitVec 3}
    (h : funct3 = 0b001#3 ∧ sel ≠ 0b0000000#7 ∨ funct3 = 0b101#3 ∧ sel ∉ [0b0000000#7, 0b0100000#7])
    (shamt : BitVec 5) (rs1 rd : RegIdx) :
    decode (encodeI (sel ++ shamt) rs1 funct3 rd .arithImm) = .error .subselect := by
  have hsel : (sel ++ shamt).extractLsb' 5 7 = sel := beq_iff_eq.mp (shiftSelector_append sel shamt)
  rw [decode_encodeI_arithImm, decodeArithImm_eq_subselect_iff, funct3Field_encodeI, funct7Field_encodeI, hsel]
  exact h

theorem aluSll_eq_ofNat (a : Word) (sh : BitVec 5) : aluSll a sh = BitVec.ofNat 32 (a.toNat * 2 ^ sh.toNat) :=
  BitVec.eq_of_toNat_eq <| by rw [toNat_aluSll, BitVec.toNat_ofNat]

theorem aluSrl_eq_ofNat (a : Word) (sh : BitVec 5) : aluSrl a sh = BitVec.ofNat 32 (a.toNat / 2 ^ sh.toNat) := by
  rw [← toNat_aluSrl, BitVec.ofNat_toNat, BitVec.setWidth_eq]

theorem aluSra_eq_ofInt (a : Word) (sh : BitVec 5) : aluSra a sh = BitVec.ofInt 32 (a.toInt / 2 ^ sh.toNat) := by
  rw [← toInt_aluSra, BitVec.ofInt_toInt]

/-- Settles O23: `shiftRule_of_commitReg` for each shift; the other selectors have no row. -/
theorem shiftImmediateResults : Obligations.ShiftImmediateResults :=
  ⟨shiftRule_of_commitReg aluSll selects_slli (fun _ _ _ _ => rfl) aluSll_eq_ofNat,
    shiftRule_of_commitReg aluSrl selects_srli (fun _ _ _ _ => rfl) aluSrl_eq_ofNat,
    shiftRule_of_commitReg aluSra selects_srai (fun _ _ _ _ => rfl) aluSra_eq_ofInt,
    fun _ shamt rs1 rd h => decode_shift_eq_subselect (.inl ⟨rfl, h⟩) shamt rs1 rd,
    fun _ shamt rs1 rd h0 h20 => decode_shift_eq_subselect (.inr ⟨rfl, by simp [h0, h20]⟩) shamt rs1 rd⟩

end Sys2Proof.Machine
end

section
/-! PROOFS. EBREAK and the system calls of ECALL (`spec/49_system.md`): which call the id names, what a call the host
answers leaves, and from these the result of each call and the errors. -/

namespace Sys2Proof.Machine

variable {s : State}

/-- Settles O26: the meaning of EBREAK written out. -/
theorem ebreakEndsTheRun : Obligations.EbreakEndsTheRun := ⟨by decide, fun _ => rfl⟩

/-! ## Which call the id names (R170) -/

theorem exec_ecall_write (h : s.syscallId = s.params.sysWrite) : exec .ecall s = bridgeWrite s := if_pos h

theorem exec_ecall_read (hp : s.params.wf) (h : s.syscallId = s.params.sysRead) : exec .ecall s = bridgeRead s := by
  obtain ⟨-, -, -, hrw, -, -⟩ := hp
  have hw : ¬ s.syscallId = s.params.sysWrite := h ▸ hrw
  exact (if_neg hw).trans (if_pos h)

theorem exec_ecall_exit (hp : s.params.wf) (h : s.syscallId = s.params.sysExit) : exec .ecall s = bridgeExit s := by
  obtain ⟨-, -, -, -, hre, hwe⟩ := hp
  have hw : ¬ s.syscallId = s.params.sysWrite := h ▸ hwe.symm
  have hr : ¬ s.syscallId = s.params.sysRead := h ▸ hre.symm
  exact (if_neg hw).trans ((if_neg hr).trans (if_pos h))

/-- Settles O29: the meaning of `exit` written out. -/
theorem ecallExitResult : Obligations.EcallExitResult := fun _ hp h => exec_ecall_exit hp h

theorem bufferOk_iff :
    s.bufferOk = true ↔ (s.readReg 11#5).toNat + (s.readReg 12#5).toNat ≤ s.params.memSize := accessOk_iff

/-- Settles O30: no row of `execEcall` for the id, or a buffer that both calls refuse. -/
theorem ecallErrors : Obligations.EcallErrors := by
  refine fun s => ⟨fun h => ?_, fun h hsize => ?_⟩
  · simp only [List.mem_cons, List.not_mem_nil, or_false, not_or] at h
    obtain ⟨hr, hw, he⟩ := h
    exact (if_neg hw).trans ((if_neg hr).trans (if_neg he))
  · have hbuf : ¬ s.bufferOk = true := fun hok => absurd (bufferOk_iff.mp hok) (Nat.not_le.mpr hsize)
    by_cases hw : s.syscallId = s.params.sysWrite
    · exact (if_pos hw).trans (if_neg hbuf)
    · have hr : s.syscallId = s.params.sysRead := by
        simp only [List.mem_cons, List.not_mem_nil, or_false] at h
        exact h.resolve_right hw
      exact (if_neg hw).trans ((if_pos hr).trans (if_neg hbuf))

/-! ## The host's answer (R174, R175) -/

theorem hostReply_cons {reply : HostReply} {rest : List HostReply} (h : s.hostReplies = reply :: rest) :
    s.hostReply = reply := by
  rw [State.hostReply, h]

theorem hostReply_nil (h : s.hostReplies = []) : s.hostReply = ⟨Config.hostResult s.hostCalls.length, []⟩ := by
  rw [State.hostReply, h]

/-- A byte the answer does not hold is a free value. -/
theorem hostByte_eq_getD (s : State) (k : Nat) :
    s.hostByte k = s.hostReply.data.getD k (Config.hostByte s.hostCalls.length k) := by
  rw [State.hostByte, List.getD_eq_getElem?_getD]
  cases s.hostReply.data[k]? <;> rfl

/-! ## A call the host has answered -/

/-- What `write` and `read` leave: the call `c` handed over, memory `m`, the host's answer in `x[10]`. -/
def State.answered (s : State) (c : HostCall) (m : Memory) : State :=
  ({ s.callHost c with mem := m }.writeReg regA0 s.hostReply.result).advance

theorem bridgeWrite_of_bufferOk (h : s.bufferOk = true) :
    bridgeWrite s = .next (s.answered s.writeCall s.mem) := if_pos h

theorem bridgeRead_of_bufferOk (h : s.bufferOk = true) :
    bridgeRead s = .next (s.answered (.read (s.arg 0#3) (s.arg 2#3))
      (s.mem.writeBytes (s.arg 1#3).toNat (s.delivered (s.arg 2#3)))) := if_pos h

/-- The parts of the control state that say how the run stands; the host's lists are not among them. -/
structure SameRun (s t : State) : Prop where
  terminated : t.terminated = s.terminated
  termCause : t.termCause = s.termCause
  exitCode : t.exitCode = s.exitCode
  fault : t.fault = s.fault
  execRanges : t.execRanges = s.execRanges
  params : t.params = s.params

variable (c : HostCall) (m : Memory)

theorem sameRun_answered : SameRun s (s.answered c m) := by
  constructor <;> simp [State.answered]

@[simp] theorem answered_pc : (s.answered c m).pc = s.pc + 4#32 := by
  simp [State.answered, State.pcPlus4]

@[simp] theorem answered_mem : (s.answered c m).mem = m := by simp [State.answered]

@[simp] theorem answered_hostCalls : (s.answered c m).hostCalls = s.hostCalls ++ [c] := by simp [State.answered]

@[simp] theorem answered_hostReplies : (s.answered c m).hostReplies = s.hostReplies.tail := by simp [State.answered]

@[simp] theorem answered_readReg_a0 : (s.answered c m).readReg 10#5 = s.hostReply.result :=
  State.readReg_writeReg_same _ regA0 _

theorem answered_readReg_other {r : RegIdx} (h : r ≠ 10#5) : (s.answered c m).readReg r = s.readReg r :=
  State.readReg_writeReg_other _ (r := regA0) h _

/-- Settles O27: the state `answered` with memory as before; `readBytes` lists the buffer in ascending order. -/
theorem ecallWriteResult : Obligations.EcallWriteResult := by
  refine ⟨by decide, fun s hid hsize =>
    ⟨_, (exec_ecall_write hid).trans (bridgeWrite_of_bufferOk (bufferOk_iff.mpr hsize)), ?_⟩⟩
  have hrun := sameRun_answered (s := s) s.writeCall s.mem
  refine ⟨fun reply rest h => ?_, fun h => ?_, ?_, fun r hr => answered_readReg_other _ _ hr, answered_pc _ _,
    fun a => by rw [answered_mem], hrun.terminated, hrun.termCause, hrun.exitCode, hrun.fault, hrun.execRanges,
    hrun.params⟩
  · simp [hostReply_cons h, h]
  · simp [hostReply_nil h, h]
  · rw [answered_hostCalls, State.writeCall, Memory.readBytes_eq_map]
    rfl

/-! ## The bytes a `read` moves (R175) -/

variable {m} {a : Nat} {count : Word}

/-- An answer of at most `count` puts as many bytes into the buffer, each the one the host delivers in its place. -/
theorem read_writeBytes_delivered (hm : m.wf = true) (h : s.hostReply.result.toNat ≤ count.toNat) {k : Nat}
    (hk : k < s.hostReply.result.toNat) : (m.writeBytes a (s.delivered count)).read (a + k) = s.hostByte k := by
  have hlen := length_delivered_of_le h
  rw [Memory.read_writeBytes_inside hm (hlen.symm ▸ hk), getElem_delivered]

/-- No byte outside the first `n` changes when no more than `n` are delivered. -/
theorem read_writeBytes_delivered_outside {n b : Nat} (hlen : (s.delivered count).length ≤ n) (hb : b < a ∨ a + n ≤ b) :
    (m.writeBytes a (s.delivered count)).read b = m.read b :=
  Memory.read_writeBytes_outside (hb.imp_right (by omega))

/-- Settles O28: the state `answered` with the delivered bytes written; their number is the answer where that is at
most `count`, and none where it is above. -/
theorem ecallReadResult : Obligations.EcallReadResult := by
  refine fun s hp hm hid hsize =>
    ⟨_, (exec_ecall_read hp hid).trans (bridgeRead_of_bufferOk (bufferOk_iff.mpr hsize)), ?_⟩
  have hrun := sameRun_answered (s := s) (.read (s.arg 0#3) (s.arg 2#3))
    (s.mem.writeBytes (s.arg 1#3).toNat (s.delivered (s.arg 2#3)))
  simp only [answered_readReg_a0, answered_hostReplies, answered_hostCalls, answered_mem, SameBytes, SameBytesOutside]
  refine ⟨fun reply rest h => ⟨?_, ?_, fun hr k hk => ?_⟩, fun h => ⟨?_, ?_, fun hr k hk => ?_⟩, fun hr b hb => ?_,
    fun hr b => ?_, fun b hb => ?_, rfl, fun r hr => answered_readReg_other _ _ hr, answered_pc _ _,
    hrun.terminated, hrun.termCause, hrun.exitCode, hrun.fault, hrun.execRanges, hrun.params⟩
  · rw [hostReply_cons h]
  · rw [h, List.tail_cons]
  · rw [← hostReply_cons h, ← hostByte_eq_getD]
    exact read_writeBytes_delivered hm hr hk
  · rw [hostReply_nil h]
  · rw [h, List.tail_nil]
  · have hfree : s.hostByte k = Config.hostByte s.hostCalls.length k := by
      rw [hostByte_eq_getD, hostReply_nil h, List.getD_nil]
    exact (read_writeBytes_delivered hm hr hk).trans hfree
  · exact read_writeBytes_delivered_outside (length_delivered_of_le hr).le hb
  · have hnone : s.delivered (s.arg 2#3) = [] := delivered_of_lt hr
    rw [hnone, Memory.writeBytes]
  · exact read_writeBytes_delivered_outside (length_delivered (s.arg 2#3)) hb

end Sys2Proof.Machine
end

section
/-! PROOFS. What each instruction does to the state: the shapes of `Effect` tied to the instruction, to the register it
may write, the bytes it may store to and the errors it may raise. The frames of `exec` follow case by case. -/

namespace Sys2Proof.Machine

variable {s t : State} {i : Instr}

/-! ## The effect of an instruction -/

/-- What the instruction can do to a state. -/
inductive InstrEffect (s : State) : Instr → State → Prop where
  /-- Its destination and `pc`. -/
  | wrote {i : Instr} (rd : RegIdx) (v p : Word) (h : destination i = some rd) :
    InstrEffect s i ((s.writeReg rd v).setPc p)
  /-- `pc` alone. -/
  | moved {i : Instr} (p : Word) : InstrEffect s i (s.setPc p)
  /-- The bytes of its span and `pc`. -/
  | stored {i : Instr} (a : Word) (n : Nat) (v : Word) (h : writeSpan s i = (a.toNat, n)) :
    InstrEffect s i { s with mem := s.mem.writeBytes a.toNat (lowBytes v n), pc := s.pcPlus4 }
  /-- One of its errors is latched. -/
  | failed {i : Instr} (code : ErrCode) (info : Word) (h : mayRaise i code) : InstrEffect s i (s.latch code info)
  /-- `write`. -/
  | hostWrite : InstrEffect s .ecall (s.answered s.writeCall s.mem)
  /-- `read`. -/
  | hostRead (h : s.syscallId = s.params.sysRead) :
    InstrEffect s .ecall (s.answered (.read (s.arg 0#3) (s.arg 2#3))
      (s.mem.writeBytes (s.arg 1#3).toNat (s.delivered (s.arg 2#3))))
  /-- `exit`. -/
  | exited (h : s.syscallId = s.params.sysExit) :
    InstrEffect s .ecall (({ s.tellHost (.exit (s.arg 0#3)) with exitCode := s.arg 0#3 }).finish .exit).advance
  /-- EBREAK. -/
  | broke : InstrEffect s .ebreak (s.finish .ebreak).advance

/-- Every next state the answer gives is an effect of the instruction. -/
def Effects (s : State) (i : Instr) (r : Result) : Prop := ∀ t, r = .next t → InstrEffect s i t

theorem effects_next (h : InstrEffect s i t) : Effects s i (.next t) := by
  rintro _ ⟨⟩
  exact h

theorem effects_raiseFault {code : ErrCode} (h : mayRaise i code) (info : Word) :
    Effects s i (raiseFault code info s) := effects_next (.failed code info h)

theorem effects_commitNothing : Effects s i (commitNothing s) := effects_next (.moved _)

theorem effects_commitReg {rd : RegIdx} {v : Word} (h : destination i = some rd) :
    Effects s i (commitReg rd v s) := effects_next (.wrote rd v _ h)

theorem effects_jumpAndLink {rd : RegIdx} {target : Word} (h : destination i = some rd)
    (herr : mayRaise i .misalignedTarget) : Effects s i (jumpAndLink rd target s) := by
  unfold jumpAndLink
  split
  · exact effects_next (.wrote rd _ _ h)
  · exact effects_raiseFault herr _

theorem effects_branchIf {c : Bool} {imm : BitVec 13} (herr : mayRaise i .misalignedTarget) :
    Effects s i (branchIf c imm s) := by
  unfold branchIf
  split_ifs
  · exact effects_next (.moved _)
  · exact effects_raiseFault herr _
  · exact effects_next (.moved _)

theorem effects_loadTo {n : Nat} {rd : RegIdx} {a : Word} {d : Option (BitVec n)} {ext : BitVec n → Word}
    (h : destination i = some rd) (herr : mayRaise i .memOob) : Effects s i (loadTo rd a d ext s) := by
  cases d with
  | none => exact effects_raiseFault herr _
  | some v => exact effects_commitReg h

theorem effects_storeAt {a : Word} {n : Nat} {v : Word} (h : writeSpan s i = (a.toNat, n))
    (herr : mayRaise i .memOob) : Effects s i (storeAt a n v s) := by
  by_cases hfits : a.toNat + n ≤ s.params.memSize
  · rw [storeAt_of_fits hfits]
    exact effects_next (.stored a n v h)
  · rw [raises_storeAt (Nat.not_le.mp hfits) v]
    exact effects_next (.failed _ _ herr)

theorem effects_execEcall : Effects s .ecall (execEcall s) := by
  have hoob : mayRaise .ecall .memOob := Or.inl rfl
  have hunknown : mayRaise .ecall .syscallUnknown := Or.inr rfl
  unfold execEcall
  split_ifs with hw hr he
  · by_cases hbuf : s.bufferOk = true
    · exact bridgeWrite_of_bufferOk hbuf ▸ effects_next .hostWrite
    · rw [bridgeWrite, if_neg hbuf]
      exact effects_raiseFault hoob _
  · by_cases hbuf : s.bufferOk = true
    · exact bridgeRead_of_bufferOk hbuf ▸ effects_next (.hostRead hr)
    · rw [bridgeRead, if_neg hbuf]
      exact effects_raiseFault hoob _
  · exact effects_next (.exited he)
  · exact effects_raiseFault hunknown _

/-- Each instruction by the lemma of the operation it ends in. -/
theorem effects_exec (i : Instr) (s : State) : Effects s i (exec i s) := by
  cases i with
  | jal | jalr => exact effects_jumpAndLink rfl rfl
  | beq | bne | blt | bge | bltu | bgeu => exact effects_branchIf rfl
  | lb | lh | lw | lbu | lhu => exact effects_loadTo rfl rfl
  | sb | sh | sw => exact effects_storeAt rfl rfl
  | fence | fenceI => exact effects_commitNothing
  | ecall => exact effects_execEcall
  | ebreak => exact effects_next .broke
  | lui | auipc | addi | slti | sltiu | xori | ori | andi | slli | srli | srai | add | sub | sll | slt | sltu | xor
    | srl | sra | or | and => exact effects_commitReg rfl

/-! ## The frames -/

/-- Settles O32: only a register result and an answered system call write a register, the destination. -/
theorem atMostOneRegisterWritten : Obligations.AtMostOneRegisterWritten := by
  refine fun i s t h => ⟨fun r hr => ?_, t.readReg_zero⟩
  cases effects_exec i s t h with
  | wrote rd v p hrd => exact s.readReg_writeReg_other (fun heq => hr (hrd.trans (congrArg some heq.symm))) v
  | hostWrite | hostRead => exact answered_readReg_other _ _ fun heq => hr (congrArg some heq.symm)
  | moved | stored | failed | exited | broke => rfl

/-- The span of a `read` is its buffer. -/
theorem writeSpan_ecall_read (h : s.syscallId = s.params.sysRead) :
    writeSpan s .ecall = ((s.arg 1#3).toNat, (s.arg 2#3).toNat) := if_pos h

/-- Settles O33: only a store and a `read` write memory, the former the bytes of its span, the latter no more than its
buffer holds. -/
theorem memoryFrame : Obligations.MemoryFrame := by
  intro i s t h b hb
  cases effects_exec i s t h with
  | stored a n v hspan =>
    rw [hspan] at hb
    exact Memory.read_writeBytes_outside (by rwa [length_lowBytes])
  | hostRead hid =>
    rw [writeSpan_ecall_read hid] at hb
    rw [answered_mem]
    exact read_writeBytes_delivered_outside (length_delivered (s.arg 2#3)) hb
  | hostWrite => rw [answered_mem]
  | wrote | moved | failed | exited | broke => simp

/-- Settles O34: the control state of each effect. -/
theorem controlStateFrame : Obligations.ControlStateFrame := by
  intro i s t h
  cases effects_exec i s t h with
  | wrote | moved | stored | failed => simp
  | hostWrite | hostRead =>
    exact ⟨(sameRun_answered _ _).params, (sameRun_answered _ _).execRanges, fun _ hi => absurd rfl hi,
      fun hi => absurd rfl hi⟩
  | exited => exact ⟨rfl, rfl, fun _ hi => absurd rfl hi, fun hi => absurd rfl hi⟩
  | broke => exact ⟨rfl, rfl, fun hi => absurd rfl hi, fun _ => ⟨rfl, rfl⟩⟩

/-- An instruction changes the latch only by raising one of its errors, and then nothing else. -/
theorem InstrEffect.fault_cases (h : InstrEffect s i t) :
    t.fault = s.fault ∨ t = { s with fault := t.fault } ∧ mayRaise i t.fault.code := by
  cases h with
  | failed code info herr => exact .inr ⟨rfl, herr⟩
  | hostWrite | hostRead => exact .inl (sameRun_answered _ _).fault
  | wrote | moved | stored | exited | broke => left; simp

/-- Settles O36: the latch was clear before and is not after, so it changed. -/
theorem errorsArePrecise : Obligations.ErrorsArePrecise := fun i s t h hs ht =>
  (effects_exec i s t h).fault_cases.resolve_left fun hf => ht (hf ▸ hs)

/-- Settles O41: `exec` by the inversion lemma, a step by what it finds first. -/
theorem everyStepAnswersNext : Obligations.EveryStepAnswersNext := by
  have hexec : ∀ (i : Instr) (s : State), ∃ t, exec i s = .next t := fun i s =>
    (exec_answers i s).imp fun _ ht => ht.1
  refine ⟨fun s => ?_, hexec⟩
  cases hf : s.front with
  | stopped => exact ⟨_, step_of_stopped hf⟩
  | ends cause => exact ⟨_, step_of_ends hf⟩
  | fails code info => exact ⟨_, step_of_fails hf⟩
  | runs i => exact step_of_runs hf ▸ hexec i s

end Sys2Proof.Machine
end

section
/-! PROOFS. No instruction reads the control state (`spec/10_state.md` section 4, rule R19): an answer shows the same
registers, `pc`, memory and calls when the control state is wiped before. -/

namespace Sys2Proof.Machine

variable {s : State}

/-- The state with its control state wiped. -/
def State.visible (s : State) : State :=
  { s with terminated := false, termCause := .none, exitCode := 0#32, fault := ⟨.ok, 0#32⟩, execRanges := [] }

/-- The answer with the control state of its next state wiped. -/
def visibleAnswer : Result → Result
  | .next t => .next t.visible
  | .fault f => .fault f
  | .refused r => .refused r

theorem writeReg_visible (s : State) (rd : RegIdx) (v : Word) :
    (s.visible.writeReg rd v).visible = (s.writeReg rd v).visible := by
  unfold State.writeReg
  split <;> rfl

theorem advance_writeReg_visible (s : State) (rd : RegIdx) (v : Word) :
    (s.visible.writeReg rd v).advance.visible = (s.writeReg rd v).advance.visible := by
  unfold State.writeReg
  split <;> rfl

theorem visibleAnswer_raiseFault (code : ErrCode) (info : Word) :
    visibleAnswer (raiseFault code info s.visible) = visibleAnswer (raiseFault code info s) := rfl

theorem visibleAnswer_commitNothing : visibleAnswer (commitNothing s.visible) = visibleAnswer (commitNothing s) := rfl

theorem visibleAnswer_commitReg (rd : RegIdx) (v : Word) :
    visibleAnswer (commitReg rd v s.visible) = visibleAnswer (commitReg rd v s) :=
  congrArg Host.Outcome.next (advance_writeReg_visible s rd v)

theorem visibleAnswer_jumpAndLink (rd : RegIdx) (target : Word) :
    visibleAnswer (jumpAndLink rd target s.visible) = visibleAnswer (jumpAndLink rd target s) := by
  unfold jumpAndLink
  split
  · exact congrArg (fun u : State => Host.Outcome.next (u.setPc target)) (writeReg_visible s rd s.pcPlus4)
  · rfl

theorem visibleAnswer_branchIf (c : Bool) (imm : BitVec 13) :
    visibleAnswer (branchIf c imm s.visible) = visibleAnswer (branchIf c imm s) := by
  have hpc : s.visible.pcRel imm = s.pcRel imm := rfl
  unfold branchIf
  rw [hpc]
  split_ifs <;> rfl

theorem visibleAnswer_loadTo {n : Nat} (rd : RegIdx) (a : Word) (d : Option (BitVec n)) (ext : BitVec n → Word) :
    visibleAnswer (loadTo rd a d ext s.visible) = visibleAnswer (loadTo rd a d ext s) := by
  cases d with
  | none => rfl
  | some v => exact visibleAnswer_commitReg rd (ext v)

theorem visibleAnswer_storeAt (a : Word) (n : Nat) (v : Word) :
    visibleAnswer (storeAt a n v s.visible) = visibleAnswer (storeAt a n v s) := by
  by_cases hfits : a.toNat + n ≤ s.params.memSize
  · rw [storeAt_of_fits hfits, storeAt_of_fits (s := s.visible) hfits]
    rfl
  · have h := Nat.not_le.mp hfits
    rw [raises_storeAt h, raises_storeAt (s := s.visible) h]
    rfl

theorem answered_visible (s : State) (c : HostCall) (m : Memory) :
    (s.visible.answered c m).visible = (s.answered c m).visible :=
  advance_writeReg_visible { s.callHost c with mem := m } regA0 s.hostReply.result

theorem visibleAnswer_bridgeWrite : visibleAnswer (bridgeWrite s.visible) = visibleAnswer (bridgeWrite s) := by
  by_cases hbuf : s.bufferOk = true
  · rw [bridgeWrite_of_bufferOk hbuf, bridgeWrite_of_bufferOk (s := s.visible) hbuf]
    exact congrArg Host.Outcome.next (answered_visible s s.writeCall s.mem)
  · rw [bridgeWrite, bridgeWrite, if_neg hbuf, if_neg (show ¬ s.visible.bufferOk = true from hbuf)]
    rfl

theorem visibleAnswer_bridgeRead : visibleAnswer (bridgeRead s.visible) = visibleAnswer (bridgeRead s) := by
  by_cases hbuf : s.bufferOk = true
  · rw [bridgeRead_of_bufferOk hbuf, bridgeRead_of_bufferOk (s := s.visible) hbuf]
    exact congrArg Host.Outcome.next (answered_visible s _ _)
  · rw [bridgeRead, bridgeRead, if_neg hbuf, if_neg (show ¬ s.visible.bufferOk = true from hbuf)]
    rfl

theorem visibleAnswer_execEcall : visibleAnswer (execEcall s.visible) = visibleAnswer (execEcall s) := by
  have hid : s.visible.syscallId = s.syscallId := rfl
  have hparams : s.visible.params = s.params := rfl
  unfold execEcall
  rw [hid, hparams]
  split_ifs
  · exact visibleAnswer_bridgeWrite
  · exact visibleAnswer_bridgeRead
  · rfl
  · rfl

/-- Each instruction by the lemma of the operation it ends in: its operands are read from registers, `pc`, memory and
parameters, which `visible` keeps. -/
theorem visibleAnswer_exec (i : Instr) (s : State) : visibleAnswer (exec i s.visible) = visibleAnswer (exec i s) := by
  cases i with
  | jal | jalr => exact visibleAnswer_jumpAndLink _ _
  | beq | bne | blt | bge | bltu | bgeu => exact visibleAnswer_branchIf _ _
  | lb | lh | lw | lbu | lhu => exact visibleAnswer_loadTo _ _ _ _
  | sb | sh | sw => exact visibleAnswer_storeAt _ _ _
  | fence | fenceI => exact visibleAnswer_commitNothing
  | ecall => exact visibleAnswer_execEcall
  | ebreak => rfl
  | lui | auipc | addi | slti | sltiu | xori | ori | andi | slli | srli | srai | add | sub | sll | slt | sltu | xor
    | srl | sra | or | and => exact visibleAnswer_commitReg _ _

/-- Settles O35: the two states are the same once their control states are wiped, so their answers are too. -/
theorem controlStateIsUnreadable : Obligations.ControlStateIsUnreadable := by
  intro i s s' t t' hregs hpc hmem hparams hreplies hcalls h h'
  have hvisible : s'.visible = s.visible := by
    simp only [State.visible, hregs, hpc, hmem, hparams, hreplies, hcalls]
  have hanswer : visibleAnswer (.next t') = visibleAnswer (.next t) := by
    rw [← h', ← h, ← visibleAnswer_exec i s', ← visibleAnswer_exec i s, hvisible]
  have ht : t'.visible = t.visible := Host.Outcome.next.inj hanswer
  obtain ⟨hregs', hpc', hmem', -, -, -, -, -, -, -, hcalls'⟩ := State.mk.inj ht
  exact ⟨hregs', hpc', hmem', hcalls'⟩

end Sys2Proof.Machine
end

section
/-! PROOFS. One step (`spec/40_datapath.md` section 1, `spec/70_reset_and_hazards.md` section 4): what it finds before
it executes, the ends and errors found there, and the four ways a run is terminated. -/

namespace Sys2Proof.Machine

variable {s : State}

/-! ## Fetch (R81) and the executable ranges (R221) -/

theorem fetch_of_fits (h : s.pc.toNat + 4 ≤ s.params.memSize) : s.fetch = some s.wordAtPc := if_pos (accessOk_iff.mpr h)

theorem fetch_of_not_fits (h : s.params.memSize < s.pc.toNat + 4) : s.fetch = none :=
  if_neg (mt accessOk_iff.mp (Nat.not_le.mpr h))

theorem fetch_eq_some {w : Word} (h : s.fetch = some w) : w = s.wordAtPc := by
  by_cases hfits : s.pc.toNat + 4 ≤ s.params.memSize
  · exact (Option.some.inj ((fetch_of_fits hfits).symm.trans h)).symm
  · cases (fetch_of_not_fits (Nat.not_le.mp hfits)).symm.trans h

theorem pcExecutable_iff :
    s.pcExecutable = true ↔ ∃ r ∈ s.execRanges, r.start ≤ s.pc.toNat ∧ s.pc.toNat + 4 ≤ r.stop := by
  simp only [State.pcExecutable, List.any_eq_true, ExecRange.holdsWordAt, decide_eq_true_iff]

theorem pcExecutable_eq_false_iff :
    s.pcExecutable = false ↔ ∀ r ∈ s.execRanges, s.pc.toNat < r.start ∨ r.stop < s.pc.toNat + 4 := by
  rw [← Bool.not_eq_true, pcExecutable_iff]
  simp only [not_exists, not_and, Nat.not_le, or_iff_not_imp_left, Nat.not_lt]

/-! ## What a running machine finds (R80, R197) -/

theorem front_of_stopped (h : s.fault.code ≠ .ok ∨ s.terminated = true) : s.front = .stopped := by
  by_cases hok : s.fault.code = .ok
  · simp [State.front, hok, h.resolve_left (not_not.mpr hok)]
  · simp [State.front, hok]

theorem front_of_sentinel (hok : s.fault.code = .ok) (hrun : s.terminated = false)
    (h : s.pc = s.params.haltSentinel) : s.front = .ends .sentinel := by
  simp [State.front, hok, hrun, h]

theorem front_of_not_executable (hok : s.fault.code = .ok) (hrun : s.terminated = false)
    (hpc : s.pc ≠ s.params.haltSentinel) (h : s.pcExecutable = false) : s.front = .ends .hostAbort := by
  simp [State.front, hok, hrun, hpc, h]

theorem front_of_no_fetch (hok : s.fault.code = .ok) (hrun : s.terminated = false)
    (hpc : s.pc ≠ s.params.haltSentinel) (hexec : s.pcExecutable = true) (h : s.fetch = none) :
    s.front = .fails .memOob s.pc := by
  simp [State.front, hok, hrun, hpc, hexec, h]

theorem front_of_fetches (h : s.Fetches) : s.front = frontOfWord s.wordAtPc := by
  simp [State.front, h.noError, h.running, h.notSentinel, pcExecutable_iff.mpr h.inRange, fetch_of_fits h.inMemory]

theorem frontOfWord_of_opcode_error {w : Word} (h : decode w = .error .opcode) :
    frontOfWord w = .fails .decodeOpcode w := by
  rw [frontOfWord, h]

theorem frontOfWord_of_subselect_error {w : Word} (h : decode w = .error .subselect) :
    frontOfWord w = .fails .decodeSubselect w := by
  rw [frontOfWord, h]

/-! ## The step -/

/-- Settles O37: the word at `pc` is what the step fetches and decodes. -/
theorem stepRunsDecodedInstruction : Obligations.StepRunsDecodedInstruction := fun _ _ h hi =>
  step_of_runs ((front_of_fetches h).trans (frontOfWord_runs.mpr hi))

/-- Settles O38: a stopped machine finds nothing to do. -/
theorem stoppedStepChangesNothing : Obligations.StoppedStepChangesNothing := fun _ h =>
  step_of_stopped (front_of_stopped h)

/-- Settles O39: the sentinel is looked at before the ranges. -/
theorem runEndsBeforeFetch : Obligations.RunEndsBeforeFetch := fun _ hok hrun =>
  ⟨fun h => step_of_ends (front_of_sentinel hok hrun h),
    fun hpc h => step_of_ends (front_of_not_executable hok hrun hpc (pcExecutable_eq_false_iff.mpr h))⟩

/-- Settles O40: the error of decode names the word, that of fetch the address. -/
theorem fetchAndDecodeErrors : Obligations.FetchAndDecodeErrors :=
  ⟨fun _ h hd => step_of_fails ((front_of_fetches h).trans (frontOfWord_of_opcode_error hd)),
    fun _ h hd => step_of_fails ((front_of_fetches h).trans (frontOfWord_of_subselect_error hd)),
    fun _ hok hrun hpc hr hsize =>
      step_of_fails (front_of_no_fetch hok hrun hpc (pcExecutable_iff.mpr hr) (fetch_of_not_fits hsize))⟩

/-- An instruction that ends a run is EBREAK, or ECALL with the id of `exit`. -/
theorem InstrEffect.terminates {t : State} {i : Instr} (h : InstrEffect s i t) (hs : s.terminated = false)
    (ht : t.terminated = true) :
    (t.termCause = .ebreak ∧ i = .ebreak) ∨
    (t.termCause = .exit ∧ i = .ecall ∧ s.syscallId = s.params.sysExit ∧ t.exitCode = s.readReg 10#5) := by
  cases h with
  | broke => exact .inl ⟨rfl, rfl⟩
  | exited hid => exact .inr ⟨rfl, rfl, hid, rfl⟩
  | hostWrite | hostRead => cases hs.symm.trans ((sameRun_answered _ _).terminated.symm.trans ht)
  | wrote rd v => cases hs.symm.trans ((s.writeReg_terminated rd v).symm.trans ht)
  | moved | stored | failed => cases hs.symm.trans ht

/-- Settles O43: the two ends before a fetch, and the two of `exec`; an error does not terminate. -/
theorem onlyFourCausesTerminate : Obligations.OnlyFourCausesTerminate := by
  intro s t h hs ht
  obtain ⟨rfl, -⟩ | ⟨-, -, ⟨rfl, hpc⟩ | ⟨rfl, -, hexec⟩ | ⟨rfl, -⟩ | ⟨w, rfl, -⟩ | ⟨w, rfl, -⟩ |
    ⟨w, i, hw, hd, hi, -⟩⟩ := step_cases h
  · cases hs.symm.trans ht
  · exact .inl ⟨rfl, hpc⟩
  · exact .inr (.inl ⟨rfl, pcExecutable_eq_false_iff.mp hexec⟩)
  · cases hs.symm.trans ht
  · cases hs.symm.trans ht
  · cases hs.symm.trans ht
  · have hword := fetch_eq_some hw ▸ hd
    obtain ⟨hcause, rfl⟩ | ⟨hcause, rfl, hid, hcode⟩ := (effects_exec i s t hi).terminates hs ht
    · exact .inr (.inr (.inl ⟨hcause, hword⟩))
    · exact .inr (.inr (.inr ⟨hcause, hword, hid, hcode⟩))

end Sys2Proof.Machine
end

section
/-! PROOFS. The invariant `State.Inv`: it holds after reset, and every effect of an instruction and every step keeps
it. -/

namespace Sys2Proof.Machine

variable {s t : State}

/-! ## Reset (`spec/70_reset_and_hazards.md` section 1) -/

/-- Settles O47: the fields of `resetWith`. -/
theorem resetValues : Obligations.ResetValues :=
  ⟨fun p => ⟨State.readReg_resetWith p, rfl, fun _ => rfl, rfl, rfl, rfl, rfl, rfl, rfl⟩, rfl⟩

theorem inv_resetWith {p : Params} (hp : p.wf) : (State.resetWith p).Inv where
  params := hp
  memWf := rfl
  memBelow := rfl
  pcAligned := rfl
  cause := by simp [State.resetWith]
  notBoth h := absurd rfl h
  okInfo _ := rfl
  known := by simp [State.resetWith]
  exitCode _ := rfl
  ranges _ hr := absurd hr List.not_mem_nil

/-- Settles O51: the scratch parameters are within their constraints, too. -/
theorem resetMeetsInvariant : Obligations.ResetMeetsInvariant :=
  ⟨inv_resetWith (p := Params.scratch) (by decide), fun _ hp => inv_resetWith hp⟩

/-! ## What keeps it -/

/-- A change of registers, `pc`, memory and the host's lists, within the bounds of `pc` and memory. -/
theorem State.Inv.of_sameRun (hs : s.Inv) (h : SameRun s t) (hpc : t.pc.toNat % 4 = 0) (hwf : t.mem.wf = true)
    (hbelow : t.mem.below s.params.memSize = true) : t.Inv where
  params := h.params ▸ hs.params
  memWf := hwf
  memBelow := h.params ▸ hbelow
  pcAligned := hpc
  cause := by rw [h.terminated, h.termCause]; exact hs.cause
  notBoth := by rw [h.fault, h.terminated]; exact hs.notBoth
  okInfo := by rw [h.fault]; exact hs.okInfo
  known := h.fault ▸ hs.known
  exitCode := by rw [h.termCause, h.exitCode]; exact hs.exitCode
  ranges := by rw [h.execRanges, h.params]; exact hs.ranges

/-- An error, latched in a running state. -/
theorem State.Inv.latch (hs : s.Inv) (hrun : s.terminated = false) {code : ErrCode} (hok : code ≠ .ok)
    (hknown : code ≠ .unknownInstr) (info : Word) : (s.latch code info).Inv where
  params := hs.params
  memWf := hs.memWf
  memBelow := hs.memBelow
  pcAligned := hs.pcAligned
  cause := hs.cause
  notBoth _ := hrun
  okInfo h := absurd h hok
  known := hknown
  exitCode := hs.exitCode
  ranges := hs.ranges

/-- While a run goes on no exit code is recorded. -/
theorem State.Inv.exitCode_of_running (hs : s.Inv) (hrun : s.terminated = false) : s.exitCode = 0#32 := by
  refine hs.exitCode fun hexit => ?_
  have hterm : s.terminated = true := hs.cause.mpr (by rw [hexit]; decide)
  cases hrun.symm.trans hterm

/-- The end of a run without an error latched; an exit code goes with the cause EXIT alone. -/
theorem State.Inv.finish (hs : s.Inv) (hok : s.fault.code = .ok) {cause : TermCause} (hcause : cause ≠ .none)
    {code : Word} (hcode : cause ≠ .exit → code = 0#32) : ({ s with exitCode := code }.finish cause).Inv where
  params := hs.params
  memWf := hs.memWf
  memBelow := hs.memBelow
  pcAligned := hs.pcAligned
  cause := ⟨fun _ => hcause, fun _ => rfl⟩
  notBoth h := absurd hok h
  okInfo := hs.okInfo
  known := hs.known
  exitCode := hcode
  ranges := hs.ranges

/-- The end of a run that does not record an exit code. -/
theorem State.Inv.finish_running (hs : s.Inv) (hok : s.fault.code = .ok) (hrun : s.terminated = false)
    {cause : TermCause} (hcause : cause ≠ .none) : (s.finish cause).Inv :=
  hs.finish hok hcause (code := s.exitCode) fun _ => hs.exitCode_of_running hrun

/-- A step of `pc`. -/
theorem State.Inv.setPc (hs : s.Inv) {p : Word} (hp : p.toNat % 4 = 0) : (s.setPc p).Inv :=
  hs.of_sameRun (by constructor <;> rfl) hp hs.memWf hs.memBelow

/-- The default increment. -/
theorem State.Inv.advance (hs : s.Inv) : s.advance.Inv := hs.setPc (aligned_pcPlus4 hs.pcAligned)

/-- A register. -/
theorem State.Inv.writeReg (hs : s.Inv) (rd : RegIdx) (v : Word) : (s.writeReg rd v).Inv :=
  hs.of_sameRun (by constructor <;> simp) ((s.writeReg_pc rd v).symm ▸ hs.pcAligned)
    ((s.writeReg_mem rd v).symm ▸ hs.memWf) ((s.writeReg_mem rd v).symm ▸ hs.memBelow)

/-- Bytes inside memory. -/
theorem State.Inv.writeBytes (hs : s.Inv) {a : Nat} {bs : List Byte} (h : a + bs.length ≤ s.params.memSize) :
    { s with mem := s.mem.writeBytes a bs }.Inv :=
  hs.of_sameRun (by constructor <;> rfl) hs.pcAligned (Memory.writeBytes_wf hs.memWf a bs)
    (Memory.writeBytes_below hs.memBelow h)

/-- The host's lists. -/
theorem State.Inv.hostLists (hs : s.Inv) (replies : List HostReply) (calls : List HostCall) :
    { s with hostReplies := replies, hostCalls := calls }.Inv :=
  hs.of_sameRun (by constructor <;> rfl) hs.pcAligned hs.memWf hs.memBelow

/-- R16: a target that is checked, or the default increment. -/
theorem State.Inv.next_pc (hs : s.Inv) {p : Word} (h : p = s.pcPlus4 ∨ aligned p = true) : p.toNat % 4 = 0 := by
  obtain rfl | h := h
  · exact aligned_pcPlus4 hs.pcAligned
  · exact aligned_iff.mp h

/-- The bytes delivered fit a buffer that was checked. -/
theorem delivered_fits (h : s.bufferOk = true) :
    (s.arg 1#3).toNat + (s.delivered (s.arg 2#3)).length ≤ s.params.memSize :=
  (Nat.add_le_add_left (length_delivered _) _).trans (accessOk_iff.mp h)

/-- Every effect of an instruction in a running state without an error. -/
theorem State.Inv.effect (hs : s.Inv) (hok : s.fault.code = .ok) (hrun : s.terminated = false) (h : Effect s t) :
    t.Inv := by
  cases h with
  | wrote rd v p hp => exact (hs.writeReg rd v).setPc (hs.next_pc hp)
  | moved p hp => exact hs.setPc (hs.next_pc hp)
  | stored a n v hfits =>
    have hbytes : a.toNat + (lowBytes v n).length ≤ s.params.memSize := by
      rw [length_lowBytes]
      exact accessOk_iff.mp hfits
    exact (hs.writeBytes hbytes).advance
  | failed code info hcode =>
    obtain rfl | rfl | rfl := hcode <;> exact hs.latch hrun (by decide) (by decide) info
  | hostWrite => exact ((hs.hostLists _ _).writeReg _ _).advance
  | hostRead hbuf => exact (((hs.writeBytes (delivered_fits hbuf)).hostLists _ _).writeReg _ _).advance
  | exited =>
    have htold : (s.tellHost (.exit (s.arg 0#3))).Inv := hs.hostLists s.hostReplies _
    exact (htold.finish hok (by decide) fun h => absurd rfl h).advance
  | broke => exact (hs.finish_running hok hrun (by decide)).advance

/-- Settles O52: nothing, an end, an error of fetch or decode, or the effect of an instruction. -/
theorem stepKeepsInvariant : Obligations.StepKeepsInvariant := by
  intro s t hs h
  obtain ⟨rfl, -⟩ | ⟨hok, hrun, ⟨rfl, -⟩ | ⟨rfl, -, -⟩ | ⟨rfl, -⟩ | ⟨w, rfl, -⟩ | ⟨w, rfl, -⟩ |
    ⟨w, i, -, -, -, heffect⟩⟩ := step_cases h
  · exact hs
  · exact hs.finish_running hok hrun (by decide)
  · exact hs.finish_running hok hrun (by decide)
  · exact hs.latch hrun (by decide) (by decide) _
  · exact hs.latch hrun (by decide) (by decide) _
  · exact hs.latch hrun (by decide) (by decide) _
  · exact hs.effect hok hrun heffect

end Sys2Proof.Machine
end

section
/-! PROOFS. The launch (`spec/20_memory.md` section 7, `spec/70_reset_and_hazards.md` sections 2 and 3): `map` of one
segment, of a list of segments, and the conditions under which a launch starts. -/

namespace Sys2Proof.Machine

variable {s t : State} {g : Segment} {gs : List Segment}

/-! ## One segment (R42) -/

theorem fits_iff {size : Nat} :
    g.fits size = true ↔ g.stop ≤ size ∧ g.start ≤ g.stop ∧ g.bytes.length = g.stop - g.start := decide_eq_true_iff

/-- What `map` of a segment leaves. -/
def State.mapped (s : State) (g : Segment) : State :=
  { s with
    mem := s.mem.writeBytes g.start g.bytes
    execRanges := if g.start < g.stop then addRange s.execRanges ⟨g.start, g.stop⟩ else s.execRanges }

theorem mapSegment_of_fits (h : g.fits s.params.memSize = true) : mapSegment g s = .next (s.mapped g) := if_pos h

theorem mapSegment_of_not_fits (h : ¬ g.fits s.params.memSize = true) :
    mapSegment g s = .fault (.mapOutOfBounds g.start g.stop) := if_neg h

theorem mem_addRange {rs : List ExecRange} {q r : ExecRange} : r ∈ addRange rs q ↔ r ∈ rs ∨ r = q := by
  unfold addRange
  split
  · next h =>
    have hq : q ∈ rs := by simpa using h
    exact ⟨.inl, fun h => h.elim id fun heq => heq ▸ hq⟩
  · simp

/-- The ranges after `map`: a segment without bytes adds none. -/
theorem mem_execRanges_mapped {r : ExecRange} :
    r ∈ (s.mapped g).execRanges ↔ r ∈ s.execRanges ∨ (g.start < g.stop ∧ r = ⟨g.start, g.stop⟩) := by
  unfold State.mapped
  split
  · next h => simp only [mem_addRange, h, true_and]
  · next h => simp only [h, false_and, or_false]

theorem read_mapped_inside (hm : s.mem.wf = true) {k : Nat} (hk : k < g.bytes.length) :
    (s.mapped g).mem.read (g.start + k) = g.bytes[k] := Memory.read_writeBytes_inside hm hk

theorem read_mapped_outside (hg : g.fits s.params.memSize = true) {a : Nat} (ha : a < g.start ∨ g.stop ≤ a) :
    (s.mapped g).mem.read a = s.mem.read a := by
  obtain ⟨-, hle, hlen⟩ := fits_iff.mp hg
  exact Memory.read_writeBytes_outside (ha.imp_right (by omega))

/-- Settles O48: `mapped` where the segment fits, the error where it does not. -/
theorem mapCopiesASegment : Obligations.MapCopiesASegment := by
  refine fun s g hm => ⟨fun hstop hle hlen => ?_, fun h => mapSegment_of_not_fits fun hg => ?_⟩
  · have hg : g.fits s.params.memSize = true := fits_iff.mpr ⟨hstop, hle, hlen⟩
    refine ⟨s.mapped g, mapSegment_of_fits hg, fun k hk => read_mapped_inside hm hk, fun a ha => ?_,
      fun r => mem_execRanges_mapped, rfl⟩
    exact read_mapped_outside hg (ha.imp_right (by omega))
  · obtain ⟨hstop, hle, hlen⟩ := fits_iff.mp hg
    exact h.elim (by omega) fun h => h.elim (by omega) (absurd hlen)

/-! ## All segments, in the order supplied (R216) -/

/-- What the `map` calls of a launch leave. -/
def State.mappedAll (s : State) (gs : List Segment) : State := gs.foldl State.mapped s

@[simp] theorem mappedAll_nil (s : State) : s.mappedAll [] = s := rfl

@[simp] theorem mappedAll_cons (s : State) (g : Segment) (gs : List Segment) :
    s.mappedAll (g :: gs) = (s.mapped g).mappedAll gs := rfl

/-- Every segment lies inside memory, the right way round and as long as its bytes. -/
def AllFit (gs : List Segment) (size : Nat) : Prop := ∀ g ∈ gs, g.fits size = true

theorem allFit_cons {size : Nat} : AllFit (g :: gs) size ↔ g.fits size = true ∧ AllFit gs size := List.forall_mem_cons

/-- The `map` calls succeed exactly when every segment fits; the first that does not ends the launch. -/
theorem mapAll_eq_next_iff : mapAll gs s = .next t ↔ AllFit gs s.params.memSize ∧ t = s.mappedAll gs := by
  induction gs generalizing s with
  | nil =>
    rw [mapAll, Host.Outcome.next.injEq, mappedAll_nil, eq_comm]
    exact (and_iff_right fun _ hg => absurd hg List.not_mem_nil).symm
  | cons g gs ih =>
    rw [mapAll, allFit_cons, mappedAll_cons]
    by_cases hg : g.fits s.params.memSize = true
    · rw [mapSegment_of_fits hg]
      simp only [hg, true_and]
      exact ih (s := s.mapped g)
    · rw [mapSegment_of_not_fits hg]
      simp only [reduceCtorEq, hg, false_and]

/-- A byte in no segment. -/
theorem read_mappedAll_outside (hfit : AllFit gs s.params.memSize) {a : Nat}
    (ha : ∀ g ∈ gs, a < g.start ∨ g.stop ≤ a) : (s.mappedAll gs).mem.read a = s.mem.read a := by
  induction gs generalizing s with
  | nil => rfl
  | cons g gs ih =>
    obtain ⟨hg, hgs⟩ := allFit_cons.mp hfit
    obtain ⟨hag, hags⟩ := List.forall_mem_cons.mp ha
    rw [mappedAll_cons, ih (s := s.mapped g) hgs hags, read_mapped_outside hg hag]

/-- A byte of a segment: no later segment, being disjoint from it, touches it. -/
theorem read_mappedAll_inside (hm : s.mem.wf = true) (hfit : AllFit gs s.params.memSize)
    (hdisj : gs.Pairwise fun g h => g.stop ≤ h.start ∨ h.stop ≤ g.start) (hg : g ∈ gs) {k : Nat}
    (hk : k < g.bytes.length) : (s.mappedAll gs).mem.read (g.start + k) = g.bytes[k] := by
  induction gs generalizing s with
  | nil => cases hg
  | cons q gs ih =>
    obtain ⟨hq, hgs⟩ := allFit_cons.mp hfit
    obtain ⟨hqgs, hdisj⟩ := List.pairwise_cons.mp hdisj
    rw [mappedAll_cons]
    obtain rfl | hg := List.mem_cons.mp hg
    · obtain ⟨-, -, hlen⟩ := fits_iff.mp hq
      have hout : ∀ h ∈ gs, g.start + k < h.start ∨ h.stop ≤ g.start + k := fun h hh =>
        (hqgs h hh).imp (by omega) (by omega)
      rw [read_mappedAll_outside (s := s.mapped g) hgs hout, read_mapped_inside hm hk]
    · exact ih (s := s.mapped q) (Memory.writeBytes_wf hm q.start q.bytes) hgs hdisj hg

theorem mem_execRanges_mappedAll {r : ExecRange} :
    r ∈ (s.mappedAll gs).execRanges ↔
      r ∈ s.execRanges ∨ ∃ g ∈ gs, g.start < g.stop ∧ r = ⟨g.start, g.stop⟩ := by
  induction gs generalizing s with
  | nil => simp
  | cons g gs ih =>
    rw [mappedAll_cons, ih, mem_execRanges_mapped, or_assoc, List.exists_mem_cons_iff]

@[simp] theorem mappedAll_params (s : State) (gs : List Segment) : (s.mappedAll gs).params = s.params := by
  induction gs generalizing s with
  | nil => rfl
  | cons g gs ih => exact ih (s.mapped g)

/-! ## `init` (R214) -/

theorem initAt_readReg (s : State) (entryPoint : Word) (r : RegIdx) :
    (s.initAt entryPoint).readReg r =
      if r = 2#5 then BitVec.ofNat 32 (s.params.memSize - 4)
      else if r = 1#5 then s.params.haltSentinel else 0#32 := by
  have hzero : ∀ u : State, u.regs = Vector.replicate 31 0#32 → u.readReg r = 0#32 := fun u hu =>
    (State.readReg_congr (s := State.resetWith u.params) hu r).trans (State.readReg_resetWith u.params r)
  rw [State.initAt, State.readReg_writeReg, State.readReg_writeReg, hzero _ rfl]
  by_cases hr : r = 0#5
  · subst hr
    rfl
  · simp only [if_neg hr]

@[simp] theorem initAt_pc (s : State) (entryPoint : Word) : (s.initAt entryPoint).pc = entryPoint := by
  simp [State.initAt]

@[simp] theorem initAt_mem (s : State) (entryPoint : Word) : (s.initAt entryPoint).mem = s.mem := by
  simp [State.initAt]

@[simp] theorem initAt_params (s : State) (entryPoint : Word) : (s.initAt entryPoint).params = s.params := by
  simp [State.initAt]

@[simp] theorem initAt_execRanges (s : State) (entryPoint : Word) :
    (s.initAt entryPoint).execRanges = s.execRanges := by
  simp [State.initAt]

@[simp] theorem initAt_terminated (s : State) (entryPoint : Word) : (s.initAt entryPoint).terminated = false := by
  simp [State.initAt]

@[simp] theorem initAt_termCause (s : State) (entryPoint : Word) : (s.initAt entryPoint).termCause = .none := by
  simp [State.initAt]

@[simp] theorem initAt_exitCode (s : State) (entryPoint : Word) : (s.initAt entryPoint).exitCode = 0#32 := by
  simp [State.initAt]

@[simp] theorem initAt_fault (s : State) (entryPoint : Word) : (s.initAt entryPoint).fault = ⟨.ok, 0#32⟩ := by
  simp [State.initAt]

theorem init_eq_next_iff {entryPoint : Word} :
    init entryPoint s = .next t ↔ entryPoint.toNat % 4 = 0 ∧ t = s.initAt entryPoint := by
  unfold init
  split
  · next h => rw [Host.Outcome.next.injEq, and_iff_right (aligned_iff.mp h), eq_comm]
  · next h => simp only [reduceCtorEq, mt aligned_iff.mpr h, false_and]

/-! ## When a launch starts (R43, R216 to R219) -/

theorem segmentsDisjoint_iff :
    segmentsDisjoint gs = true ↔ gs.Pairwise fun g h => g.stop ≤ h.start ∨ h.stop ≤ g.start := by
  induction gs with
  | nil => simp [segmentsDisjoint]
  | cons g gs ih => simp [segmentsDisjoint, Segment.disjoint, ih]

theorem sentinelPlaced_iff {p : Params} :
    sentinelPlaced p gs = true ↔ p.haltSentinel.toNat % 4 = 0 ∧
      ∀ g ∈ gs, p.haltSentinel.toNat < g.start ∨ g.stop ≤ p.haltSentinel.toNat := by
  simp only [sentinelPlaced, Bool.and_eq_true, aligned_iff, List.all_eq_true, decide_eq_true_iff]

/-- A launch starts exactly under the four conditions, and then in the state that `init` leaves after the `map`
calls. -/
theorem launch_eq_next_iff {p : Params} {entryPoint : Word} :
    launch p gs entryPoint = .next s ↔
      segmentsDisjoint gs = true ∧ sentinelPlaced p gs = true ∧ AllFit gs p.memSize ∧ entryPoint.toNat % 4 = 0 ∧
        s = ((State.resetWith p).mappedAll gs).initAt entryPoint := by
  unfold launch
  by_cases hdisj : segmentsDisjoint gs = true
  swap
  · simp only [hdisj, if_false, reduceCtorEq, false_and]
  by_cases hsent : sentinelPlaced p gs = true
  swap
  · simp only [hdisj, hsent, if_true, if_false, reduceCtorEq, false_and, and_false]
  by_cases hfit : AllFit gs p.memSize
  · have hmap : mapAll gs (State.resetWith p) = .next ((State.resetWith p).mappedAll gs) :=
      mapAll_eq_next_iff.mpr ⟨hfit, rfl⟩
    simp only [hdisj, hsent, hfit, hmap, if_true, true_and, init_eq_next_iff]
  · simp only [hdisj, hsent, hfit, if_true, true_and, false_and, iff_false]
    cases hmap : mapAll gs (State.resetWith p) with
    | next t => exact absurd (mapAll_eq_next_iff.mp hmap).1 hfit
    | fault f => simp only [reduceCtorEq, not_false_iff]
    | refused r => simp only [reduceCtorEq, not_false_iff]

/-- R219, R5: the sentinel of parameters within their constraints is a multiple of 4. -/
theorem haltSentinel_aligned {p : Params} (hp : p.wf) : p.haltSentinel.toNat % 4 = 0 := by
  obtain ⟨-, -, hsent, -⟩ := hp
  exact aligned_iff.mp (beq_iff_eq.mpr hsent)

/-- The stack pointer a launch leaves (R214): the address of the last word. -/
theorem toNat_stackPointer {p : Params} (hp : p.wf) : (BitVec.ofNat 32 (p.memSize - 4)).toNat = p.memSize - 4 := by
  obtain ⟨hmin, hmax, -⟩ := hp
  rw [BitVec.toNat_ofNat, Nat.mod_eq_of_lt (by omega)]

/-- Settles O49: the launch starts (`launch_eq_next_iff`); its registers and control state are those of `init`, its
memory and ranges those of the `map` calls after reset. -/
theorem launchInitialises : Obligations.LaunchInitialises := by
  intro p gs entryPoint hp halign hsegs hdisj hsent
  have hfit : AllFit gs p.memSize := fun g hg => fits_iff.mpr ((and_left_comm).mp (hsegs g hg))
  have hstart := launch_eq_next_iff.mpr
    ⟨segmentsDisjoint_iff.mpr hdisj, sentinelPlaced_iff.mpr ⟨haltSentinel_aligned hp, hsent⟩, hfit, halign, rfl⟩
  refine ⟨_, hstart, ?_⟩
  simp only [initAt_readReg, initAt_mem, initAt_execRanges, mappedAll_params]
  refine ⟨rfl, toNat_stackPointer hp, fun r h1 h2 => ?_, initAt_pc _ _,
    (initAt_params _ _).trans (mappedAll_params _ _), initAt_terminated _ _, initAt_termCause _ _,
    initAt_exitCode _ _, initAt_fault _ _, fun g hg k hk => ?_, fun a ha => ?_, fun r => ?_⟩
  · rw [if_neg h2, if_neg h1]
  · exact read_mappedAll_inside (s := State.resetWith p) rfl hfit hdisj hg hk
  · exact read_mappedAll_outside (s := State.resetWith p) hfit ha
  · rw [mem_execRanges_mappedAll]
    exact or_iff_right List.not_mem_nil

/-- Settles O50: the conditions of `launch_eq_next_iff`. -/
theorem badLaunchNeverStarts : Obligations.BadLaunchNeverStarts := by
  intro p gs entryPoint s h
  obtain ⟨hdisj, hsent, hfit, halign, -⟩ := launch_eq_next_iff.mp h
  obtain ⟨hsent4, hsentOut⟩ := sentinelPlaced_iff.mp hsent
  exact ⟨halign, fun g hg => and_left_comm.mp (fits_iff.mp (hfit g hg)), segmentsDisjoint_iff.mp hdisj, hsent4,
    hsentOut⟩

end Sys2Proof.Machine
end

section
/-! PROOFS. Runs (`spec/70_reset_and_hazards.md` section 4): every reachable state meets the invariant, no fetch there
is out of bounds, and a run that has ended is final and ended in one way. -/

namespace Sys2Proof.Machine

variable {s : State}

/-! ## From a launch on -/

/-- A segment that fits. -/
theorem State.Inv.mapped (hs : s.Inv) {g : Segment} (hg : g.fits s.params.memSize = true) : (s.mapped g).Inv := by
  obtain ⟨hstop, hle, hlen⟩ := fits_iff.mp hg
  have hbytes : { s with mem := s.mem.writeBytes g.start g.bytes }.Inv := hs.writeBytes (by omega)
  refine { hbytes with ranges := fun r hr => ?_ }
  obtain hr | ⟨hlt, rfl⟩ := mem_execRanges_mapped.mp hr
  · exact hs.ranges r hr
  · exact ⟨hlt, hstop⟩

theorem State.Inv.mappedAll {gs : List Segment} (hs : s.Inv) (hfit : AllFit gs s.params.memSize) :
    (s.mappedAll gs).Inv := by
  induction gs generalizing s with
  | nil => exact hs
  | cons g gs ih =>
    obtain ⟨hg, hgs⟩ := allFit_cons.mp hfit
    exact ih (hs.mapped hg) hgs

/-- `init` clears the control state. -/
theorem State.Inv.initAt (hs : s.Inv) {entryPoint : Word} (h : entryPoint.toNat % 4 = 0) :
    (s.initAt entryPoint).Inv where
  params := by rw [initAt_params]; exact hs.params
  memWf := by rw [initAt_mem]; exact hs.memWf
  memBelow := by rw [initAt_mem, initAt_params]; exact hs.memBelow
  pcAligned := by rw [initAt_pc]; exact h
  cause := by simp
  notBoth hne := absurd (congrArg FaultLatch.code (initAt_fault s entryPoint)) hne
  okInfo _ := by rw [initAt_fault]
  known := by simp
  exitCode _ := initAt_exitCode s entryPoint
  ranges := by rw [initAt_execRanges, initAt_params]; exact hs.ranges

theorem Launched.inv (h : Launched s) : s.Inv := by
  obtain ⟨p, gs, entryPoint, hp, hstart⟩ := h
  obtain ⟨-, -, hfit, halign, rfl⟩ := launch_eq_next_iff.mp hstart
  exact ((inv_resetWith hp).mappedAll hfit).initAt halign

theorem Reachable.inv (h : Reachable s) : s.Inv := by
  induction h with
  | start h => exact h.inv
  | step _ hstep ih => exact stepKeepsInvariant _ _ ih hstep

/-- A fetch is tried only where `pc` is executable, which in a state of a run means inside memory. -/
theorem State.Inv.front_ne_memOob (hs : s.Inv) : s.front ≠ .fails .memOob s.pc := by
  intro hfails
  obtain ⟨hf, -⟩ | ⟨-, -, ⟨hf, -⟩ | ⟨hf, -⟩ | ⟨-, hexec, ⟨-, hnone⟩ | ⟨w, -, ⟨hf, -⟩ | ⟨hf, -⟩ | ⟨i, hf, -⟩⟩⟩⟩ :=
    front_cases s
  case inr.inr.inr.inl =>
    obtain ⟨r, hr, -, hstop⟩ := pcExecutable_iff.mp hexec
    cases (fetch_of_fits (hstop.trans (hs.ranges r hr).2)).symm.trans hnone
  all_goals cases hf.symm.trans hfails

/-- Settles O53: both parts follow from the invariant, which launches meet and steps keep. -/
theorem runsMeetInvariantAndFetch : Obligations.RunsMeetInvariantAndFetch := fun _ h => ⟨h.inv, h.inv.front_ne_memOob⟩

/-! ## The end of a run (R222) -/

theorem ended_iff : s.ended = true ↔ s.terminated = true ∨ s.fault.code ≠ .ok := by
  rw [State.ended, Bool.or_eq_true, bne_iff_ne]

theorem step_of_ended (h : s.ended = true) : step s = .next s :=
  stoppedStepChangesNothing s (ended_iff.mp h).symm

/-- A state whose step is itself is what any number of steps gives. -/
theorem run_of_step_eq_self {M : Host.Core} {s : M.State} (h : M.step s = .next s) (n : Nat) : M.run n s = .next s := by
  induction n with
  | zero => rfl
  | succ n ih =>
    rw [Host.Core.run, h]
    exact ih

/-- Under the invariant an ended state has either a cause or an error, and of the causes HOST_ABORT alone is
abnormal. -/
theorem State.Inv.endedNormally_eq (hs : s.Inv) (h : s.ended = true) : s.endedNormally = !s.endedAbnormally := by
  unfold State.endedNormally State.endedAbnormally
  by_cases hok : s.fault.code = .ok
  · have hterm : s.terminated = true := (ended_iff.mp h).resolve_right (not_not.mpr hok)
    have hcause := hs.cause.mp hterm
    rw [hok]
    cases hc : s.termCause with
    | none => exact absurd hc hcause
    | ebreak | exit | sentinel | hostAbort => rfl
  · have hnone : s.termCause = .none := by
      by_contra hcause
      cases (hs.notBoth hok).symm.trans (hs.cause.mpr hcause)
    have hbad : (s.fault.code != .ok) = true := bne_iff_ne.mpr hok
    rw [hnone, hbad]
    rfl

/-- Settles O54: an ended state is its own next state; a reachable one meets the invariant. -/
theorem endedRunIsFinal : Obligations.EndedRunIsFinal :=
  ⟨fun n _ h => run_of_step_eq_self (M := Sys2Proof.core) (step_of_ended h) n, fun _ hr h => hr.inv.endedNormally_eq h⟩

end Sys2Proof.Machine
end
